-- ==== Sys2Proof/Word.lean ====
section
/-! DEFINITION. Word.lean: the one data width of the block, the 8-bit byte (R6, `00_scope.md`), and sequences of bytes. -/

namespace Sys2Proof

/-- A byte: a natural number 0 to 255 (R6); unsigned everywhere (R43). -/
abbrev Byte := BitVec 8

/-- A byte sequence, indexed from 0 (R6). -/
abbrev Bytes := List Byte

end Sys2Proof
end

