-- ==== Sys2Proof/Config.lean ====
section
/-! DEFINITION. Config.lean: the parameters of R5 (`00_scope.md`). Those the spec leaves OPEN are constants without a body:
nothing in Lean can evaluate them or prove a value of them. -/

namespace Sys2Proof

/-- The three command frames whose class, id and payload are open parameters (R125, R126, R127). -/
inductive OpenCmd where
  /-- `CMD_NAVMODE`, the frame "set-navigation-mode (auto 2D)" (R125). -/
  | navMode
  /-- `CMD_LED`, the frame "set-LED-behavior" (R126). -/
  | led
  /-- `CMD_POLLSTOP`, the generic "poll/stop filter" frame (R127). -/
  | pollStop
deriving DecidableEq, Repr

/-- `CARRY_POLICY` (R5, R116): what the host does with the tail of an incomplete item. -/
inductive CarryPolicy where
  | none
  | prependTail
deriving DecidableEq, Repr

namespace Config

/-- Default of `CFG.MAXLEN` (R5, R26, R29, R45). -/
def maxlenDefault : Nat := 82

/-- What an offset of the window that no cell lists reads as. DESIGN CHOICE, log 3: a window is kept as its bytes other than
00, so that equal windows are equal lists. -/
def unlistedByte : Byte := 0x00#8

/-- Class of an open command frame: OPEN (R125 to R127, D29). Free value, log 14. -/
opaque openCls : OpenCmd → Byte

/-- Message id of an open command frame: OPEN (R125 to R127, D29). Free value, log 14. -/
opaque openId : OpenCmd → Byte

/-- Payload length of an open command frame: OPEN, at most 65535 (D29), which the width says. Free value, log 14. -/
opaque openLen : OpenCmd → BitVec 16

/-- Payload bytes of an open command frame: OPEN (R125 to R127, D29). Free value, log 14. -/
opaque openByte : OpenCmd → Nat → Byte

/-- Payload of an open command frame, the `P` of its triple (D29). -/
def openPayload (c : OpenCmd) : Bytes :=
  (List.range (openLen c).toNat).map (openByte c)

/-- `FLOAT_ROUND` (R5, R84): OPEN; only that it is a function of its argument is assumed. It is applied once to each delivered
number (D22). A number of the platform's format is given by the rational it stands for. Free value, log 15. -/
opaque floatRound : Rat → Rat

/-- `DIAG_SINK_PRESENT` (R5, R115, D34): OPEN. Free value, log 20. -/
opaque diagSinkPresent : Bool

/-- `HALF_LEN` less one (R5, D2: a natural number >= 1): OPEN. Free value, log 20. -/
opaque halfLenLessOne : Nat

/-- `HALF_LEN` (R5, R35): the nominal size of a half buffer; no rule of the block depends on it. -/
def halfLen : Nat := halfLenLessOne + 1

end Config

end Sys2Proof
end

