-- ==== Sys2Proof/Machine/Codec.lean ====
section
/-! DEFINITION. Machine/Codec.lean: the framing constants (R45), slices and searches of byte sequences (R6, R42), and the
checksum and codec primitives (`40_checksum.md`, R62 to R67; R120). All are pure functions of their operands. -/

namespace Sys2Proof.Machine

/-- `NMEA_START`, the character `$` (R45). -/
def chDollar : Byte := 0x24#8
/-- `NMEA_CKSEP`, the character `*` (R45). -/
def chStar : Byte := 0x2A#8
/-- `NMEA_FSEP`, the character `,` (R45). -/
def chComma : Byte := 0x2C#8
/-- The character `.` (R6). -/
def chDot : Byte := 0x2E#8
/-- `CR` (R45). -/
def chCR : Byte := 0x0D#8
/-- `LF` (R45). -/
def chLF : Byte := 0x0A#8
/-- `UBX_SYNC1` (R45). -/
def sync1 : Byte := 0xB5#8
/-- `UBX_SYNC2` (R45). -/
def sync2 : Byte := 0x62#8
/-- `UBX_CLASS_ACK` (R45). -/
def clsAck : Byte := 0x05#8
/-- `UBX_ID_ACK` (R45). -/
def idAck : Byte := 0x01#8
/-- `UBX_ID_NAK` (R45). -/
def idNak : Byte := 0x00#8
/-- `UBX_OVERHEAD`: the bytes of a frame besides its payload (R45). -/
def ubxOverhead : Nat := 8
/-- `UBX_HDR`: the bytes from the sync word through the length field (R45). -/
def ubxHdr : Nat := 6

/-- `S[a..b)` (R6): empty when `a >= b`; no index outside `S` is read. -/
def slice (S : Bytes) (a b : Nat) : Bytes := (S.take b).drop a

/-- The least `k` with `a <= k < b` and `S[k] = c` (the searches of R71 and R103). -/
def findByte (c : Byte) (S : Bytes) (a b : Nat) : Option Nat :=
  ((slice S a b).findIdx? (· == c)).map (· + a)

/-- `S` starts with the sync word `B5 62` (R45, R56 test 2). -/
def startsSync (S : Bytes) : Bool := S[0]? == some sync1 && S[1]? == some sync2

/-- `le16(lo, hi) = lo + 256 * hi` (R7, R32), a natural of at most 65535. -/
def le16 (lo hi : Byte) : Nat := lo.toNat + 256 * hi.toNat

/-- R62. -/
def nmeaXor (B : Bytes) : Byte := B.foldl (· ^^^ ·) 0x00#8

/-- The digit function `d` of R63. -/
def hexDigit (n : Nat) : Byte :=
  if n ≤ 9 then BitVec.ofNat 8 (0x30 + n) else BitVec.ofNat 8 (0x41 + (n - 10))

/-- R63: high nibble first, upper case. -/
def hex2Enc (v : Byte) : Byte × Byte :=
  (hexDigit (v.extractLsb' 4 4).toNat, hexDigit (v.extractLsb' 0 4).toNat)

/-- The digit value `hv` of R64; `none` is `invalid`. -/
def hexValue (c : Byte) : Option Byte :=
  if 0x30#8 ≤ c ∧ c ≤ 0x39#8 then some (c - 0x30#8)
  else if 0x41#8 ≤ c ∧ c ≤ 0x46#8 then some (c - 0x41#8 + 10#8)
  else if 0x61#8 ≤ c ∧ c ≤ 0x66#8 then some (c - 0x61#8 + 10#8)
  else none

/-- R64. -/
def hex2Dec (c1 c2 : Byte) : Option Byte :=
  match hexValue c1, hexValue c2 with
  | some h, some l => some (16#8 * h + l)
  | _, _ => none

/-- One step of the Fletcher sums (R65): `ckB` adds the new `ckA`; both wrap modulo 256. -/
def ubxCkStep (ck : Byte × Byte) (d : Byte) : Byte × Byte :=
  (ck.1 + d, ck.2 + (ck.1 + d))

/-- R65: `(CK_A, CK_B)`, seeded at (0, 0). -/
def ubxCk (D : Bytes) : Byte × Byte := D.foldl ubxCkStep (0x00#8, 0x00#8)

/-- The bytes the checksum of a frame covers: class, id, the two length bytes, payload (R54, R120). -/
def ubxBody (cls id : Byte) (P : Bytes) : Bytes :=
  [cls, id, BitVec.ofNat 8 (P.length % 256), BitVec.ofNat 8 (P.length / 256)] ++ P

/-- R120. -/
def build (cls id : Byte) (P : Bytes) : Bytes :=
  let D := ubxBody cls id P
  [sync1, sync2] ++ D ++ [(ubxCk D).1, (ubxCk D).2]

/-- The pseudo-item `NMEA "body"` of R60: a sentence stamped with its own checksum. -/
def nmeaStamp (body : Bytes) : Bytes :=
  [chDollar] ++ body ++ [chStar, (hex2Enc (nmeaXor body)).1, (hex2Enc (nmeaXor body)).2, chCR, chLF]

end Sys2Proof.Machine
end

