-- ==== Sys2Proof/Machine/Rom.lean ====
section
/-! DEFINITION. Machine/Rom.lean: the command ROM (R27, R121 to R130): seven immutable frames, each `BUILD` of its triple. -/

namespace Sys2Proof.Machine

/-- A frame of the ROM (R23): bytes the spec gives, or the frame of an open parameter (R125 to R127), whose bytes no proof can
see (log 14). -/
inductive RomFrame where
  | given (bytes : Bytes)
  | openParam (c : OpenCmd)
deriving DecidableEq, Repr

/-- The seven frames by name, in index order (R129). -/
structure Rom where
  disableGll : RomFrame
  disableVtg : RomFrame
  disableGsv : RomFrame
  disableGsa : RomFrame
  setNavmode : RomFrame
  setLed : RomFrame
  pollStop : RomFrame
deriving DecidableEq, Repr

/-- The bytes of a frame: for an open parameter, `BUILD` of its class, id and payload (R125 to R127). -/
def romFrameBytes : RomFrame → Bytes
  | .given bytes => bytes
  | .openParam c => build (Config.openCls c) (Config.openId c) (Config.openPayload c)

/-- The payload of the message-rate frame that disables an NMEA sentence class (R121 to R124; the spec marks the values as
general knowledge, G5). -/
def disablePayload (msg : Byte) : Bytes := [0xF0#8, msg, 0x00#8]

/-- R121. -/
def frameDisableGll : RomFrame := .given (build 0x06#8 0x01#8 (disablePayload 0x01#8))
/-- R122. -/
def frameDisableVtg : RomFrame := .given (build 0x06#8 0x01#8 (disablePayload 0x05#8))
/-- R123. -/
def frameDisableGsv : RomFrame := .given (build 0x06#8 0x01#8 (disablePayload 0x03#8))
/-- R124. -/
def frameDisableGsa : RomFrame := .given (build 0x06#8 0x01#8 (disablePayload 0x02#8))
/-- R125. -/
def frameSetNavmode : RomFrame := .openParam .navMode
/-- R126. -/
def frameSetLed : RomFrame := .openParam .led
/-- R127. -/
def framePollStop : RomFrame := .openParam .pollStop

/-- The constant contents of the ROM (R27). -/
def romContents : Rom :=
  { disableGll := frameDisableGll
    disableVtg := frameDisableVtg
    disableGsv := frameDisableGsv
    disableGsa := frameDisableGsa
    setNavmode := frameSetNavmode
    setLed := frameSetLed
    pollStop := framePollStop }

/-- `ROM[k]`, `k = 0 .. 6` (R129). -/
def romFrame (r : Rom) : Fin 7 → RomFrame
  | 0 => r.disableGll
  | 1 => r.disableVtg
  | 2 => r.disableGsv
  | 3 => r.disableGsa
  | 4 => r.setNavmode
  | 5 => r.setLed
  | 6 => r.pollStop

end Sys2Proof.Machine
end

