-- ==== Sys2Proof/Machine/Flags.lean ====
section
/-! DEFINITION. Machine/Flags.lean: the block has no condition codes (R25). Its truth values are the checksum comparisons,
which steer the scanner and leave nothing behind, and the `valid` member of a `PositionFix` (R20, R82, R83). -/

namespace Sys2Proof.Machine

/-- R66: both bytes must match. -/
def ubxCkValid (D : Bytes) (a b : Byte) : Bool :=
  (ubxCk D).1 == a && (ubxCk D).2 == b

/-- The comparison of R72. -/
def nmeaCkOk (S : Bytes) (i : Nat) (cks : Byte) : Bool :=
  nmeaXor (slice S 1 i) == cks

/-- `valid = (quality != 0)` (R53, R83). -/
def qualityValid (q : Nat) : Bool := q != 0

end Sys2Proof.Machine
end

