-- ==== Sys2Proof/Syntax.lean ====
section
/-! DEFINITION. Syntax.lean: the instructions of the block. An instruction is one row of spec/opcode_table.json: a wire item
(R56), a command frame of the ROM (R121 to R127) or an internal operation (R61). -/

namespace Sys2Proof

/-- The text of a sentence that has the structure of R46: its fields (field 0 is the address field, R48), the two bytes of its
checksum field as written (R47), and whether the optional `\r` stands before the `\n`. -/
structure SentenceText where
  fields : List Bytes
  hex1 : Byte
  hex2 : Byte
  cr : Bool
deriving DecidableEq, Repr

/-- A successful outcome of `UBX_DECODE` (R90 check 8): what `UBX_ACCEPT` is handed (R109). -/
inductive UbxMessage where
  | ack (ackClass ackId : Byte)
  | nak (ackClass ackId : Byte)
  | frame (cls id : Byte) (payload : Bytes)
deriving DecidableEq, Repr

/-- A failed outcome of `UBX_DECODE` (R90): what `UBX_REJECT` is handed (R110). -/
inductive UbxFailure where
  | truncatedFrame
  | checksumMismatch
deriving DecidableEq, Repr

/-- One constructor per row of spec/opcode_table.json, in the table's order. -/
inductive Instr where
  /-- NMEA.RMC (R82): a sentence of type RMC whose structure and checksum are good. -/
  | nmeaRmc (t : SentenceText)
  /-- NMEA.GGA (R83): a sentence of type GGA whose structure and checksum are good. -/
  | nmeaGga (t : SentenceText)
  /-- NMEA.OTHER (R75 and the table's row): any other span, `$` to the first `\n` inclusive. -/
  | nmeaOther (span : Bytes)
  /-- UBX.ACK (R91). -/
  | ubxAck (ackClass ackId : Byte)
  /-- UBX.NAK (R92). -/
  | ubxNak (ackClass ackId : Byte)
  /-- UBX.FRAME (R93). -/
  | ubxFrame (cls id : Byte) (payload : Bytes)
  /-- SKIP (R101): a byte that starts no item. -/
  | skip (b : Byte)
  /-- CMD.DISABLE_GLL (R121). -/
  | cmdDisableGll
  /-- CMD.DISABLE_VTG (R122). -/
  | cmdDisableVtg
  /-- CMD.DISABLE_GSV (R123). -/
  | cmdDisableGsv
  /-- CMD.DISABLE_GSA (R124). -/
  | cmdDisableGsa
  /-- CMD.SET_NAVMODE (R125). -/
  | cmdSetNavmode
  /-- CMD.SET_LED (R126). -/
  | cmdSetLed
  /-- CMD.POLL_STOP (R127). -/
  | cmdPollStop
  /-- NMEA_XOR (R62) of a sentence body. -/
  | nmeaXor (body : Bytes)
  /-- HEX2ENC (R63). -/
  | hex2Enc (v : Byte)
  /-- HEX2DEC (R64). -/
  | hex2Dec (c1 c2 : Byte)
  /-- UBX_CK (R65). -/
  | ubxCk (d : Bytes)
  /-- UBX_CK_VALID (R66). -/
  | ubxCkValid (d : Bytes) (a b : Byte)
  /-- NMEA_DECODE (R70) of a span. -/
  | nmeaDecode (span : Bytes)
  /-- NMEA_FRAME (R71) of a span. -/
  | nmeaFrame (span : Bytes)
  /-- NMEA_CKCHECK (R72): span, index of its `*`, parsed checksum. -/
  | nmeaCkcheck (span : Bytes) (star : Nat) (cks : Byte)
  /-- NMEA_TOKENIZE (R73): span, index of its `*`. -/
  | nmeaTokenize (span : Bytes) (star : Nat)
  /-- NMEA_ADDR (R74): the fields, field 0 first (there is always one, R48). -/
  | nmeaAddr (f0 : Bytes) (others : List Bytes)
  /-- PARSE_UINT (R76). -/
  | parseUint (t : Bytes)
  /-- PARSE_DEC (R77). -/
  | parseDec (t : Bytes)
  /-- PARSE_ANGLE (R78): `nd` is 2 for a latitude, 3 for a longitude. -/
  | parseAngle (t : Bytes) (nd : Nat)
  /-- PARSE_TIME (R79). -/
  | parseTime (t : Bytes)
  /-- PARSE_HEMI_NS (R80). -/
  | parseHemiNs (t : Bytes)
  /-- PARSE_HEMI_EW (R80). -/
  | parseHemiEw (t : Bytes)
  /-- PARSE_STATUS (R80). -/
  | parseStatus (t : Bytes)
  /-- UBX_DECODE (R90) of a slice. -/
  | ubxDecode (slice : Bytes)
  /-- SCAN (R100): the window, or none where it is absent; `N` is its length. -/
  | scan (w : Option Bytes)
  /-- STEP (R101). -/
  | step
  /-- FLUSH (R102). -/
  | flush
  /-- NMEA_SPAN (R103). -/
  | nmeaSpan
  /-- NMEA_INCOMPLETE (R104). -/
  | nmeaIncomplete
  /-- NMEA_OVERLONG (R105). -/
  | nmeaOverlong
  /-- NMEA_DISPATCH (R106); the terminator's offset is the register `j`. -/
  | nmeaDispatch
  /-- UBX_SPAN (R107). -/
  | ubxSpan
  /-- UBX_INCOMPLETE (R108). -/
  | ubxIncomplete
  /-- UBX_ACCEPT (R109). -/
  | ubxAccept (r : UbxMessage)
  /-- UBX_REJECT (R110). -/
  | ubxReject (r : UbxFailure)
  /-- SCAN_END (R111). -/
  | scanEnd
  /-- BUILD (R120). -/
  | build (cls id : Byte) (payload : Bytes)
  /-- ROM_READ (R129): frame indices are 0 to 6. -/
  | romRead (k : Fin 7)
deriving DecidableEq, Repr

end Sys2Proof
end

