-- ==== Sys2Proof/Machine/Records.lean ====
section
/-! DEFINITION. Machine/Records.lean: the records of the result stream (`10_state.md` R19 to R24) and the outcomes of the two
decoders (R70, R90, R146). -/

namespace Sys2Proof.Machine

/-- The protocol tag of R19, R24 (D13). -/
inductive Proto where
  | nmea
  | ubx
deriving DecidableEq, Repr

/-- UTC time-of-day as written (R20, R79): not range-checked; the seconds are an exact rational (delivered as log 15 says). -/
structure Utc where
  hh : Nat
  mm : Nat
  ss : Rat
deriving DecidableEq, Repr

/-- The `PositionFix` record (R20), with exact rationals; R84 says how it is delivered. -/
structure PositionFix where
  lat : Rat
  lon : Rat
  utc : Utc
  valid : Bool
  sats : Option Nat
  hdop : Option Rat
deriving DecidableEq, Repr

/-- The `NmeaSentence` record (R21): the tokenizer's product, never emitted. -/
structure NmeaSentence where
  talker : Bytes
  ty : Bytes
  f : List Bytes
  cks : Byte
deriving DecidableEq, Repr

/-- The parts of a `DEC` (R77): integer digits, fraction digits, value. -/
structure DecParts where
  ip : Bytes
  fp : Bytes
  v : Rat
deriving DecidableEq, Repr

/-- The kinds of results and their fields besides `consumed` (R19). -/
inductive Kind where
  | positionFix (f : PositionFix)
  | ack (ackClass ackId : Byte)
  | nak (ackClass ackId : Byte)
  | ubxFrame (cls id : Byte) (len : BitVec 16) (payload : Bytes)
  | unrecognizedBytes
  | incompleteAtBoundary (proto : Proto)
  | malformedSentence
  | checksumMismatch (proto : Proto)
  | fieldFormatError (field : Nat)
  | unsupportedSentenceType (addr : Bytes)
  | truncatedFrame
  | invalidWindow
deriving DecidableEq, Repr

/-- One element of the result stream (R19): its kind and the number of window bytes it accounts for. -/
structure Result where
  kind : Kind
  consumed : Nat
deriving DecidableEq, Repr

/-- The five outcomes of `NMEA_DECODE` (R70). -/
inductive NmeaOutcome where
  | positionFix (f : PositionFix)
  | malformedSentence
  | checksumMismatch
  | fieldFormatError (field : Nat)
  | unsupportedSentenceType (addr : Bytes)
deriving DecidableEq, Repr

/-- The outcomes of `UBX_DECODE` (R90): Ack, Nak or UbxFrame; TruncatedFrame or ChecksumMismatch(Ubx). -/
inductive UbxOutcome where
  | accepted (m : UbxMessage)
  | rejected (f : UbxFailure)
deriving DecidableEq, Repr

end Sys2Proof.Machine
end

