-- ==== Sys2Proof/Machine/Frame.lean ====
section
/-! DEFINITION. Machine/Frame.lean: the UBX frame decoder (`42_ubx_decoder.md`, R54, R55, R90 to R93) as a pure function of a
slice that starts at the sync word. -/

namespace Sys2Proof.Machine

/-- The declared length of a frame (R17, R54): `S[4] + 256 * S[5]`, 16 bits. -/
def ubxLen (S : Bytes) : BitVec 16 := BitVec.ofNat 16 (le16 (S.getD 4 0x00#8) (S.getD 5 0x00#8))

/-- The bytes the checksum of the frame at the front of `S` covers: `S[2 .. 6+len)` (R54, R65). -/
def ubxCovered (S : Bytes) : Bytes := slice S 2 (6 + (ubxLen S).toNat)

/-- Check 8 of R90: class `05` with id `01` or `00` and a payload of two bytes is an Ack or a Nak (R91, R92), anything else a
`UbxFrame` (R93). -/
def ubxMessage (cls id : Byte) (payload : Bytes) : UbxMessage :=
  match payload with
  | [a, b] =>
    if cls = clsAck ∧ id = idAck then .ack a b
    else if cls = clsAck ∧ id = idNak then .nak a b
    else .frame cls id payload
  | _ => .frame cls id payload

/-- R90 from check 3 on, for a slice of 8 or more bytes. -/
def ubxChecked (S : Bytes) : UbxOutcome :=
  let len := (ubxLen S).toNat
  if 8 + len > S.length then .rejected .truncatedFrame
  else if ubxCkValid (ubxCovered S) (S.getD (6 + len) 0x00#8) (S.getD (7 + len) 0x00#8) then
    .accepted (ubxMessage (S.getD 2 0x00#8) (S.getD 3 0x00#8) (slice S 6 (6 + len)))
  else .rejected .checksumMismatch

/-- R90 without its precondition (check 2, R95): the checks in order, the first that fails deciding the outcome. -/
def ubxDecode (S : Bytes) : UbxOutcome :=
  if S.length < 8 then .rejected .truncatedFrame else ubxChecked S

/-- Class, id and payload of a message; `r.len` of R114 is the payload's length, 2 for an Ack or a Nak. -/
def messageParts : UbxMessage → Byte × Byte × Bytes
  | .ack a b => (clsAck, idAck, [a, b])
  | .nak a b => (clsAck, idNak, [a, b])
  | .frame cls id payload => (cls, id, payload)

/-- The decoded length of a message (R109). -/
def messageLen (m : UbxMessage) : Nat := (messageParts m).2.2.length

/-- The frame a message is carried by (R54, R55). -/
def messageFrame (m : UbxMessage) : Bytes :=
  build (messageParts m).1 (messageParts m).2.1 (messageParts m).2.2

/-- The result kind of a message (R19, R91 to R93). -/
def messageKind : UbxMessage → Kind
  | .ack a b => .ack a b
  | .nak a b => .nak a b
  | .frame cls id payload => .ubxFrame cls id (BitVec.ofNat 16 payload.length) payload

/-- The result kind of a rejected candidate (R110). -/
def failureKind : UbxFailure → Kind
  | .truncatedFrame => .truncatedFrame
  | .checksumMismatch => .checksumMismatch .ubx

end Sys2Proof.Machine
end

