-- ==== Sys2Proof/Machine/Sentence.lean ====
section
/-! DEFINITION. Machine/Sentence.lean: the structure, checksum, fields and address of an NMEA sentence (R46 to R49, R71 to R74),
as pure functions of the span. Indices are relative to the span (R71). -/

namespace Sys2Proof.Machine

/-- The first two tests of R71: the span starts with `$` and ends at `\n`. -/
def spanDelimited (S : Bytes) : Bool :=
  S.head? == some chDollar && S.getLast? == some chLF

/-- The index `e` of R71: the first terminator byte, `\r` if it stands directly before the final `\n`. -/
def frameEnd (S : Bytes) : Nat :=
  let e := S.length - 1
  if 1 ≤ e - 1 ∧ S[e - 1]? = some chCR then e - 1 else e

/-- The index `i` of R71: the first `*` after the `$` and before the terminator. -/
def starIndex (S : Bytes) : Option Nat := findByte chStar S 1 (frameEnd S)

/-- R71: the index of the `*` and the parsed checksum; `none` is `MalformedSentence`. -/
def nmeaFrame (S : Bytes) : Option (Nat × Byte) :=
  if spanDelimited S then
    match starIndex S with
    | none => none
    | some i =>
      if frameEnd S = i + 3 then
        (hex2Dec (S.getD (i + 1) 0x00#8) (S.getD (i + 2) 0x00#8)).map fun cks => (i, cks)
      else none
  else none

/-- The fields of a body (R48): the pieces between commas, `c + 1` of them for `c` commas. -/
def splitFields : Bytes → List Bytes
  | [] => [[]]
  | b :: bs =>
    if b = chComma then [] :: splitFields bs
    else
      match splitFields bs with
      | [] => [[b]]
      | f :: fs => (b :: f) :: fs

/-- Fields put back together with single commas, the `join` of R86. -/
def joinFields : List Bytes → Bytes
  | [] => []
  | [f] => f
  | f :: g :: fs => f ++ chComma :: joinFields (g :: fs)

/-- R73. -/
def nmeaTokenize (S : Bytes) (i : Nat) : List Bytes := splitFields (slice S 1 i)

/-- R74: talker and type of a 5-byte address field; `none` is `UnsupportedSentenceType`. -/
def nmeaAddr (f0 : Bytes) : Option (Bytes × Bytes) :=
  if f0.length = 5 then some (slice f0 0 2, slice f0 2 5) else none

/-- The bytes `RMC` (R49). -/
def typeRmc : Bytes := [0x52#8, 0x4D#8, 0x43#8]

/-- The bytes `GGA` (R49). -/
def typeGga : Bytes := [0x47#8, 0x47#8, 0x41#8]

/-- The layout an address field selects (R49, R56): compared byte for byte, the talker not examined. -/
def addrType (f0 : Bytes) : Option Bytes := (nmeaAddr f0).map (·.2)

/-- The text of a span whose structure (R71) and checksum (R72) pass. -/
def sentenceText? (S : Bytes) : Option SentenceText :=
  match nmeaFrame S with
  | none => none
  | some (i, cks) =>
    if nmeaCkOk S i cks then
      some
        { fields := nmeaTokenize S i
          hex1 := S.getD (i + 1) 0x00#8
          hex2 := S.getD (i + 2) 0x00#8
          cr := frameEnd S + 1 != S.length }
    else none

/-- The span a sentence's text spells (R46): `$`, fields joined by commas, `*`, two digits, an optional `\r`, `\n`. -/
def sentenceSpan (t : SentenceText) : Bytes :=
  [chDollar] ++ joinFields t.fields ++ [chStar, t.hex1, t.hex2] ++ (if t.cr then [chCR] else []) ++ [chLF]

/-- Field 0 of a sentence (R48, R49). -/
def addressField (fields : List Bytes) : Bytes := fields.headD []

end Sys2Proof.Machine
end

