-- ==== Sys2Proof/WellFormed.lean ====
section
/-! DEFINITION. WellFormed.lean: which instructions the encoding admits, given the sentence bound `MAXLEN` (R26). A wire item is
well formed when its encoding is what the wire can carry (R46 to R49, R54, R55, R57); an internal operation when its operands
meet the bounds its rule states. -/

namespace Sys2Proof

open Machine

/-- A body byte (R46): it ends neither the body nor the sentence. -/
def bodyByte (b : Byte) : Bool := b != chStar && b != chLF

/-- A field byte (R48): a body byte other than the separator. -/
def fieldByte (b : Byte) : Bool := bodyByte b && b != chComma

/-- A sentence's text with a good structure and checksum, of at most `maxlen` bytes (R46, R47, R72, R103), whose address field
selects the layout `ty` (R49). -/
def textWellFormed (maxlen : Nat) (ty : Bytes) (t : SentenceText) : Bool :=
  t.fields.all (·.all fieldByte)
    && hex2Dec t.hex1 t.hex2 == some (nmeaXor (joinFields t.fields))
    && addrType (addressField t.fields) == some ty
    && decide ((sentenceSpan t).length ≤ maxlen)

/-- A span as the scanner finds one (R103): `$` first, `\n` last and nowhere between, at most `maxlen` bytes. -/
def spanWellFormed (maxlen : Nat) (S : Bytes) : Bool :=
  S.head? == some chDollar
    && findByte chLF S 1 S.length == some (S.length - 1)
    && decide (S.length ≤ maxlen)

/-- The layout a span selects when its structure and checksum pass (R49, R70). -/
def selectsLayout (S : Bytes) : Bool :=
  match sentenceText? S with
  | none => false
  | some t => addrType (addressField t.fields) == some typeRmc || addrType (addressField t.fields) == some typeGga

/-- A message the length field can carry, and a `UbxFrame` only where rules R91 and R92 do not apply (R93). -/
def messageWellFormed (m : UbxMessage) : Bool :=
  decide (messageLen m ≤ 65535)
    && ubxMessage (messageParts m).1 (messageParts m).2.1 (messageParts m).2.2 == m

/-- The well-formed instructions for a sentence bound. -/
def Instr.wellFormed (maxlen : Nat) : Instr → Bool
  | .nmeaRmc t => textWellFormed maxlen typeRmc t
  | .nmeaGga t => textWellFormed maxlen typeGga t
  | .nmeaOther S => spanWellFormed maxlen S && !selectsLayout S
  | .ubxAck _ _ => true
  | .ubxNak _ _ => true
  | .ubxFrame cls id payload => messageWellFormed (.frame cls id payload)
  | .skip b => b != chDollar
  | .cmdDisableGll => true
  | .cmdDisableVtg => true
  | .cmdDisableGsv => true
  | .cmdDisableGsa => true
  | .cmdSetNavmode => true
  | .cmdSetLed => true
  | .cmdPollStop => true
  | .nmeaXor _ => true
  | .hex2Enc _ => true
  | .hex2Dec _ _ => true
  | .ubxCk _ => true
  | .ubxCkValid _ _ _ => true
  | .nmeaDecode _ => true
  | .nmeaFrame _ => true
  | .nmeaCkcheck S star _ => decide (1 ≤ star) && decide (star ≤ S.length)
  | .nmeaTokenize S star => decide (1 ≤ star) && decide (star ≤ S.length)
  | .nmeaAddr _ _ => true
  | .parseUint _ => true
  | .parseDec _ => true
  | .parseAngle _ nd => nd == 2 || nd == 3
  | .parseTime _ => true
  | .parseHemiNs _ => true
  | .parseHemiEw _ => true
  | .parseStatus _ => true
  | .ubxDecode S => decide (S.length < 8) || startsSync S
  | .scan _ => true
  | .step => true
  | .flush => true
  | .nmeaSpan => true
  | .nmeaIncomplete => true
  | .nmeaOverlong => true
  | .nmeaDispatch => true
  | .ubxSpan => true
  | .ubxIncomplete => true
  | .ubxAccept m => messageWellFormed m
  | .ubxReject _ => true
  | .scanEnd => true
  | .build _ _ payload => decide (payload.length ≤ 65535)
  | .romRead _ => true

end Sys2Proof
end

