-- ==== Sys2Proof/Decode.lean ====
section
/-! DEFINITION. Decode.lean: what the bytes at the scan cursor are (R56, R61), total on any bytes, and the encoder written from
the same layouts (R46, R54, R55, R59). A row of the table says what a candidate claims to be; the decoder applies the
structure, length and checksum rules and answers the row whose condition holds, or the internal operation that deals with a
candidate whose claim fails (R104, R105, R108, R110). See log 11. -/

namespace Sys2Proof

open Machine

/-- Why the decoder rejects. -/
inductive DecodeError where
  /-- There is no byte at the cursor: `off = N` (R101 needs `off < N`). Safe. -/
  | noByte
deriving DecidableEq, Repr

/-- The terminator search of R103, relative to the `$`: the first `\n` among the first `min(N - s, MAXLEN)` bytes. -/
def terminator (maxlen : Nat) (bs : Bytes) : Option Nat :=
  findByte chLF bs 1 (min bs.length maxlen)

/-- Which of the three NMEA rows a found span is (R56, R61): structure and checksum first, then the address field. -/
def decodeSpan (S : Bytes) : Instr :=
  match sentenceText? S with
  | none => .nmeaOther S
  | some t =>
    if addrType (addressField t.fields) = some typeRmc then .nmeaRmc t
    else if addrType (addressField t.fields) = some typeGga then .nmeaGga t
    else .nmeaOther S

/-- An NMEA candidate (R103): a span, or what R104 and R105 do without one. -/
def decodeNmea (maxlen : Nat) (bs : Bytes) : Instr :=
  match terminator maxlen bs with
  | some j => decodeSpan (bs.take (j + 1))
  | none => if bs.length ≤ maxlen then .nmeaIncomplete else .nmeaOverlong

/-- The wire item of an accepted frame (R91 to R93). -/
def messageInstr : UbxMessage → Instr
  | .ack a b => .ubxAck a b
  | .nak a b => .ubxNak a b
  | .frame cls id payload => .ubxFrame cls id payload

/-- A UBX candidate (R107): header check, then the frame decoder. -/
def decodeUbx (bs : Bytes) : Instr :=
  if bs.length < ubxHdr then .ubxIncomplete
  else
    match ubxDecode bs with
    | .accepted m => messageInstr m
    | .rejected f => .ubxReject f

/-- The item at the front of `bs = W[off .. N)`: the tests of R56 in order. -/
def decode (maxlen : Nat) (bs : Bytes) : Except DecodeError Instr :=
  match bs with
  | [] => .error .noByte
  | b :: _ =>
    if b = chDollar then .ok (decodeNmea maxlen bs)
    else if startsSync bs then .ok (decodeUbx bs)
    else .ok (.skip b)

/-- The bytes of an instruction: a wire item's own (R46, R54, R55), a command frame's (R59). The internal operations have no
encoding (R61). -/
def encode : Instr → Option Bytes
  | .nmeaRmc t => some (sentenceSpan t)
  | .nmeaGga t => some (sentenceSpan t)
  | .nmeaOther S => some S
  | .ubxAck a b => some (build clsAck idAck [a, b])
  | .ubxNak a b => some (build clsAck idNak [a, b])
  | .ubxFrame cls id payload => some (build cls id payload)
  | .skip b => some [b]
  | .cmdDisableGll => some (romFrameBytes frameDisableGll)
  | .cmdDisableVtg => some (romFrameBytes frameDisableVtg)
  | .cmdDisableGsv => some (romFrameBytes frameDisableGsv)
  | .cmdDisableGsa => some (romFrameBytes frameDisableGsa)
  | .cmdSetNavmode => some (romFrameBytes frameSetNavmode)
  | .cmdSetLed => some (romFrameBytes frameSetLed)
  | .cmdPollStop => some (romFrameBytes framePollStop)
  | .nmeaXor _ | .hex2Enc _ | .hex2Dec _ _ | .ubxCk _ | .ubxCkValid _ _ _ => none
  | .nmeaDecode _ | .nmeaFrame _ | .nmeaCkcheck _ _ _ | .nmeaTokenize _ _ | .nmeaAddr _ _ => none
  | .parseUint _ | .parseDec _ | .parseAngle _ _ | .parseTime _ => none
  | .parseHemiNs _ | .parseHemiEw _ | .parseStatus _ => none
  | .ubxDecode _ | .scan _ | .step | .flush | .nmeaSpan | .nmeaIncomplete | .nmeaOverlong => none
  | .nmeaDispatch | .ubxSpan | .ubxIncomplete | .ubxAccept _ | .ubxReject _ | .scanEnd => none
  | .build _ _ _ | .romRead _ => none

/-- The seven rows the decoder selects from the wire (R61: formats NMEA, UBX and RAW). -/
def Instr.isWireItem : Instr → Bool
  | .nmeaRmc _ | .nmeaGga _ | .nmeaOther _ | .ubxAck _ _ | .ubxNak _ _ | .ubxFrame _ _ _ | .skip _ => true
  | .cmdDisableGll | .cmdDisableVtg | .cmdDisableGsv | .cmdDisableGsa => false
  | .cmdSetNavmode | .cmdSetLed | .cmdPollStop => false
  | .nmeaXor _ | .hex2Enc _ | .hex2Dec _ _ | .ubxCk _ | .ubxCkValid _ _ _ => false
  | .nmeaDecode _ | .nmeaFrame _ | .nmeaCkcheck _ _ _ | .nmeaTokenize _ _ | .nmeaAddr _ _ => false
  | .parseUint _ | .parseDec _ | .parseAngle _ _ | .parseTime _ => false
  | .parseHemiNs _ | .parseHemiEw _ | .parseStatus _ => false
  | .ubxDecode _ | .scan _ | .step | .flush | .nmeaSpan | .nmeaIncomplete | .nmeaOverlong => false
  | .nmeaDispatch | .ubxSpan | .ubxIncomplete | .ubxAccept _ | .ubxReject _ | .scanEnd => false
  | .build _ _ _ | .romRead _ => false

/-- The `n` bytes of a table word: byte `k` is bits `8k+7 .. 8k`, so that bit 0 is in the byte at the lowest offset. -/
def wordBytes (n w : Nat) : Bytes := (List.range n).map fun k => BitVec.ofNat 8 (w / 256 ^ k)

/-- The bytes of the instruction a table word stands for: bits above the word are 0, as far as the item's own header asks for
them (a frame takes `8 + len` bytes, R58; what a sentence lacks no header tells). -/
def tableWordBytes (nbits w : Nat) : Bytes :=
  let bs := wordBytes (nbits / 8) w
  let want := if startsSync bs then ubxOverhead + (ubxLen bs).toNat else bs.length
  bs ++ List.replicate (want - bs.length) 0x00#8

/-- The instruction the decoder reads from a word of spec/opcode_table.json, at the default `MAXLEN`. -/
def decodeTableWord (nbits w : Nat) : Option Instr :=
  match decode Config.maxlenDefault (tableWordBytes nbits w) with
  | .ok i => some i
  | .error _ => none

end Sys2Proof
end

