-- ==== Sys2Proof/Machine/Operands.lean ====
section
/-! DEFINITION. Machine/Operands.lean: the operand forms, that is the number formats and letters inside the fields of a sentence
(R50, R51, R76 to R80), the two field layouts (R81 to R83) and the whole sentence decoder (R70). Values are exact rationals;
no range is checked (R51). -/

namespace Sys2Proof.Machine

/-- An ASCII digit `0`..`9` (R50). -/
def isDigit (b : Byte) : Bool := 0x30#8 ≤ b && b ≤ 0x39#8

/-- The number a string of digits spells (R50): digit value = byte − `0x30`; the empty string spells 0 (R77). -/
def decimal (t : Bytes) : Nat := t.foldl (fun n b => 10 * n + (b.toNat - 0x30)) 0

/-- R76; `none` is `fail`. -/
def parseUint (t : Bytes) : Option Nat :=
  if t ≠ [] ∧ t.all isDigit then some (decimal t) else none

/-- `int(ip) + int(fp) / 10^|fp|` (R77). -/
def decValue (ip fp : Bytes) : Rat := (decimal ip : Rat) + (decimal fp : Rat) / ((10 ^ fp.length : Nat) : Rat)

/-- R77: one or more digits, then optionally `.` and zero or more digits. -/
def parseDec (t : Bytes) : Option DecParts :=
  let ip := t.takeWhile isDigit
  if ip = [] then none
  else
    match t.dropWhile isDigit with
    | [] => some ⟨ip, [], decValue ip []⟩
    | p :: fp => if p = chDot ∧ fp.all isDigit then some ⟨ip, fp, decValue ip fp⟩ else none

/-- R78: degrees plus minutes / 60, for an integer part of exactly `nd + 2` digits. -/
def parseAngle (t : Bytes) (nd : Nat) : Option Rat :=
  match parseDec t with
  | none => none
  | some d =>
    if d.ip.length = nd + 2 then
      some ((decimal (slice d.ip 0 nd) : Rat) + decValue (slice d.ip nd (nd + 2)) d.fp / 60)
    else none

/-- R79: `hhmmss` with an optional fraction of seconds. -/
def parseTime (t : Bytes) : Option Utc :=
  match parseDec t with
  | none => none
  | some d =>
    if d.ip.length = 6 then
      some ⟨decimal (slice d.ip 0 2), decimal (slice d.ip 2 4), decValue (slice d.ip 4 6) d.fp⟩
    else none

/-- R80: `N` is +1, `S` is −1. -/
def parseHemiNs (t : Bytes) : Option Int :=
  if t = [0x4E#8] then some 1 else if t = [0x53#8] then some (-1) else none

/-- R80: `E` is +1, `W` is −1. -/
def parseHemiEw (t : Bytes) : Option Int :=
  if t = [0x45#8] then some 1 else if t = [0x57#8] then some (-1) else none

/-- R80: `A` is true, `V` is false. -/
def parseStatus (t : Bytes) : Option Bool :=
  if t = [0x41#8] then some true else if t = [0x56#8] then some false else none

/-- R81: field `n`, or the error that names `n` where it is missing or its parser fails. -/
def needField {α : Type} (f : List Bytes) (n : Nat) (parse : Bytes → Option α) : Except Nat α :=
  match f[n]? with
  | none => .error n
  | some t =>
    match parse t with
    | none => .error n
    | some v => .ok v

/-- R82: the fields of an RMC sentence in ascending index; an error carries the lowest failing index. -/
def rmcFix (f : List Bytes) : Except Nat PositionFix := do
  let utc ← needField f 1 parseTime
  let valid ← needField f 2 parseStatus
  let a ← needField f 3 (parseAngle · 2)
  let sa ← needField f 4 parseHemiNs
  let o ← needField f 5 (parseAngle · 3)
  let so ← needField f 6 parseHemiEw
  return { lat := (sa : Rat) * a, lon := (so : Rat) * o, utc, valid, sats := none, hdop := none }

/-- R83: the fields of a GGA sentence in ascending index; an error carries the lowest failing index. -/
def ggaFix (f : List Bytes) : Except Nat PositionFix := do
  let utc ← needField f 1 parseTime
  let a ← needField f 2 (parseAngle · 2)
  let sa ← needField f 3 parseHemiNs
  let o ← needField f 4 (parseAngle · 3)
  let so ← needField f 5 parseHemiEw
  let q ← needField f 6 parseUint
  let sats ← needField f 7 parseUint
  let d ← needField f 8 parseDec
  return { lat := (sa : Rat) * a, lon := (so : Rat) * o, utc, valid := qualityValid q, sats := some sats, hdop := some d.v }

/-- A fix or `FieldFormatError` (R82, R83). -/
def fixOutcome : Except Nat PositionFix → NmeaOutcome
  | .ok p => .positionFix p
  | .error n => .fieldFormatError n

/-- Steps 4 to 7 of R70 for the fields of a sentence whose structure and checksum are good. -/
def fieldsOutcome (f : List Bytes) : NmeaOutcome :=
  if addrType (addressField f) = some typeRmc then fixOutcome (rmcFix f)
  else if addrType (addressField f) = some typeGga then fixOutcome (ggaFix f)
  else .unsupportedSentenceType (addressField f)

/-- R70: structure, checksum, tokens, address, type, fields, in this order; the first failure decides. -/
def nmeaDecode (S : Bytes) : NmeaOutcome :=
  match nmeaFrame S with
  | none => .malformedSentence
  | some (i, cks) =>
    if nmeaCkOk S i cks then fieldsOutcome (nmeaTokenize S i) else .checksumMismatch

/-- The record of R21: it exists only for a span of good structure (R71), good checksum (R72) and a 5-byte address field (R74). -/
def nmeaSentence? (S : Bytes) : Option NmeaSentence :=
  match nmeaFrame S with
  | none => none
  | some (i, cks) =>
    if nmeaCkOk S i cks then
      (nmeaAddr (addressField (nmeaTokenize S i))).map fun a =>
        { talker := a.1, ty := a.2, f := nmeaTokenize S i, cks := cks }
    else none

/-- The row NMEA.OTHER (R75, R70 steps 1, 2, 4): a span that selects neither layout. -/
def otherOutcome (S : Bytes) : NmeaOutcome :=
  match nmeaFrame S with
  | none => .malformedSentence
  | some (i, cks) =>
    if nmeaCkOk S i cks then .unsupportedSentenceType (addressField (nmeaTokenize S i)) else .checksumMismatch

/-- The result kind of a sentence's outcome (R19, R106). -/
def nmeaKind : NmeaOutcome → Kind
  | .positionFix f => .positionFix f
  | .malformedSentence => .malformedSentence
  | .checksumMismatch => .checksumMismatch .nmea
  | .fieldFormatError n => .fieldFormatError n
  | .unsupportedSentenceType a => .unsupportedSentenceType a

end Sys2Proof.Machine
end

