-- ==== Sys2Proof/Machine/State.lean ====
section
/-! DEFINITION. Machine/State.lean: the state of the block (R11, `10_state.md`), plain data. The last three fields are the
model's own (logs 5, 7, 8). -/

namespace Sys2Proof.Machine

/-- The phase register (R18). -/
inductive Phase where
  | idle
  | scanning
deriving DecidableEq, Repr

/-- What an operation hands back to its caller (the signatures of spec/opcode_table.json). The spec's operations return a value
and keep none; the model holds the last one in the field `ret` (log 7). -/
inductive Ret where
  /-- Nothing has been handed back yet. -/
  | nothing
  /-- The byte of NMEA_XOR (R62) or HEX2DEC (R64). -/
  | byte (b : Byte)
  /-- The two digits of HEX2ENC (R63). -/
  | digits (hi lo : Byte)
  /-- `invalid` of HEX2DEC (R64). -/
  | invalid
  /-- The pair of UBX_CK (R65). -/
  | sums (a b : Byte)
  /-- The truth value of UBX_CK_VALID (R66) or PARSE_STATUS (R80). -/
  | truth (b : Bool)
  /-- The outcome of NMEA_DECODE (R70); a part of it that raises hands back the outcome it raises (R71, R72, R74, R146). -/
  | sentence (o : NmeaOutcome)
  /-- `(i, cks)` of NMEA_FRAME (R71). -/
  | framed (i : Nat) (cks : Byte)
  /-- `ok` of NMEA_CKCHECK (R72). -/
  | ckOk
  /-- The fields of NMEA_TOKENIZE (R73). -/
  | fields (f : List Bytes)
  /-- `(talker, type)` of NMEA_ADDR (R74). -/
  | address (talker type : Bytes)
  /-- The natural of PARSE_UINT (R76). -/
  | natural (n : Nat)
  /-- `(ip, fp, v)` of PARSE_DEC (R77). -/
  | decimal (d : DecParts)
  /-- The degrees of PARSE_ANGLE (R78). -/
  | degrees (q : Rat)
  /-- The triple of PARSE_TIME (R79). -/
  | time (u : Utc)
  /-- The sign of PARSE_HEMI_NS or PARSE_HEMI_EW (R80). -/
  | sign (n : Int)
  /-- `fail` of a field parser (R76 to R80). -/
  | fail
  /-- The outcome of UBX_DECODE (R90). -/
  | frame (o : UbxOutcome)
  /-- The frame of BUILD (R120), of a command frame (R121 to R127) or of ROM_READ (R129). -/
  | bytes (b : Bytes)
deriving DecidableEq, Repr

/-- A move of the host (R10, D1; log 5). -/
inductive HostMove where
  /-- `START(W, N)` (R100, R143): the window, or none where it is absent; N is its length. -/
  | start (w : Option Bytes)
  /-- The write of `CFG.MAXLEN` (R26). -/
  | writeMaxlen (v : Nat)
  /-- The read `ROM[k]` (R129). -/
  | romRead (k : Fin 7)
  /-- A power-on reset (R155). -/
  | reset
  /-- The host does nothing while the block makes one step. -/
  | wait
deriving DecidableEq, Repr

/-- The state of the block. -/
structure State where
  /-- Whether a pass is running (R18). -/
  phase : Phase
  /-- The window W: its bytes other than 00 by offset, offsets strictly rising (R30; log 3). -/
  mem : List Host.Cell
  /-- The length N of the window (R30). -/
  wlen : Nat
  /-- `CFG.MAXLEN` (R26). -/
  maxlen : Nat
  /-- The scan cursor, the block's program counter (R13). -/
  off : Nat
  /-- The partial-match register (R14): `None`, `Nmea` or `Ubx`. -/
  pm : Option Proto
  /-- The count of unrecognised bytes not yet reported (R15). -/
  skip : Nat
  /-- The running XOR (R16, R62). -/
  x : Byte
  /-- The first Fletcher sum (R16, R65). -/
  ckA : Byte
  /-- The second Fletcher sum (R16, R65). -/
  ckB : Byte
  /-- The declared payload length (R17). -/
  len : BitVec 16
  /-- Scratch: the terminator's window offset (R12, R103). -/
  j : Nat
  /-- Scratch: the index of the `*` in the span (R12, R71). -/
  i : Nat
  /-- Scratch: the index of the first terminator byte in the span (R12, R71). -/
  e : Nat
  /-- The result stream R of the pass (R19). -/
  results : List Result
  /-- The command ROM (R27). -/
  rom : Rom
  /-- The model's own: the host's pending moves, oldest first (log 5). -/
  inbox : List HostMove
  /-- The model's own: what the last value-returning operation handed to its caller (log 7). -/
  ret : Ret
  /-- The model's own: every result handed over at the boundary, oldest first (log 8). -/
  emitted : List Result
deriving DecidableEq, Repr

/-- Why the machine stops with a fault. The spec's block never faults (R57, R140). -/
inductive Fault where
  /-- A window byte at an offset `a >= N` is asked for, or an item would account for it: the spec defines no such byte (R31).
  Raised by the scanner operations and the wire items; never by `step` from a state the block can reach. Safe. -/
  | noSuchOffset (a : Nat)
deriving DecidableEq, Repr

/-- Why the machine refuses: each is a situation for which the spec has no transition. -/
inductive Refusal where
  /-- An instruction without a meaning yet. Raised by no arm of `exec`. Safe. -/
  | notModelled (mnemonic : String)
  /-- START while a pass is running (R18, U4). Raised by SCAN. Safe. -/
  | passRunning
  /-- A scanner operation or a wire item while no pass is running: there is no ScanCursor (R11, R18). Safe. -/
  | noPass
  /-- NMEA_SPAN at a byte that is not `$`: outside its precondition (R103). Safe. -/
  | notSentenceStart
  /-- UBX_SPAN or UBX_DECODE at bytes that are not the sync word: outside their precondition (R95, R107, U2). Safe. -/
  | notSyncWord
  /-- NMEA_DISPATCH where `j` is not behind the cursor: there are no bytes to dispatch (R103, R106; logs 13, 28). Safe. -/
  | noSpan
  /-- SCAN_END while bytes are left: it stands at `off = N` (R111). Safe. -/
  | notAtEnd
  /-- A payload of more than 65535 bytes: no length field can declare it (R17, R120). Raised by BUILD, UBX_ACCEPT and
  UBX.FRAME. Safe. -/
  | payloadTooLong
  /-- A write of 0 to `CFG.MAXLEN`: the write exists only with values >= 1 (R26, U5). Raised by `step`. Safe. -/
  | maxlenZero
  /-- The decoder found no byte at the cursor (R101). Raised by `step`; no state with `off < N` reaches it. Safe. -/
  | noByte
deriving DecidableEq, Repr

/-- The machine right after power-on reset (R29, R155). The registers without a value there hold those of log 1. -/
def State.reset : State :=
  { phase := .idle
    mem := []
    wlen := 0
    maxlen := Config.maxlenDefault
    off := 0
    pm := none
    skip := 0
    x := 0x00#8
    ckA := 0x00#8
    ckB := 0x00#8
    len := 0x0000#16
    j := 0
    i := 0
    e := 0
    results := []
    rom := romContents
    inbox := []
    ret := .nothing
    emitted := [] }

end Sys2Proof.Machine
end

