-- ==== Sys2Proof/Machine/Ops.lean ====
section
/-! DEFINITION. Machine/Ops.lean: the named operations over the window, the registers and the result stream. Taking an exception
is ONE operation, `report` (R142): the block appends one result and moves the cursor; it saves nothing, changes no mode and has
no vector and no return instruction, for the scan resumes at the cursor (R144). -/

namespace Sys2Proof.Machine

/-- The outcomes of a step of this machine. -/
abbrev Out := Host.Outcome State Fault Refusal

/-! ### The window (`20_memory.md`) -/

/-- The canonical form: offsets strictly rise from `lo` and stay below `n`, and no cell holds what an unlisted offset reads as. -/
def memoryWfFrom (lo n : Nat) : List Host.Cell → Bool
  | [] => true
  | (a, b) :: m => decide (lo ≤ a) && decide (a < n) && b != Config.unlistedByte && memoryWfFrom (a + 1) n m

/-- The canonical form of a window of `n` bytes (log 3). -/
def memoryWf (n : Nat) (m : List Host.Cell) : Bool := memoryWfFrom 0 n m

/-- The byte at offset `a`. -/
def memoryRead : List Host.Cell → Nat → Byte
  | [], _ => Config.unlistedByte
  | (k, b) :: m, a => if a = k then b else memoryRead m a

/-- The cells of the bytes `bs` at offsets `a, a+1, …`, in canonical form. -/
def memoryLoadFrom (a : Nat) : Bytes → List Host.Cell
  | [] => []
  | b :: bs => if b = Config.unlistedByte then memoryLoadFrom (a + 1) bs else (a, b) :: memoryLoadFrom (a + 1) bs

/-- The window the host lends with START (R30): byte `k` of `bs` at offset `k`. -/
def memoryLoad (bs : Bytes) : List Host.Cell := memoryLoadFrom 0 bs

/-- `W[a]` (R31): defined only for `a < N`. -/
def windowByte (s : State) (a : Nat) : Option Byte :=
  if a < s.wlen then some (memoryRead s.mem a) else none

/-- `W[a..b)` (R6, R31): the bytes at the offsets of the range that lie in the window. -/
def windowSlice (s : State) (a b : Nat) : Bytes :=
  (List.range' a (min b s.wlen - a)).map (memoryRead s.mem)

/-- `W[off..N)`: what the decoder at the cursor is given (R90, R107). -/
def fetchBytes (s : State) : Bytes := windowSlice s s.off s.wlen

/-! ### Results and the cursor -/

/-- `emit` (R19): append a result to R; it is handed over at the boundary (R38, log 8). -/
def State.emit (k : Kind) (consumed : Nat) (s : State) : State :=
  { s with results := s.results ++ [⟨k, consumed⟩], emitted := s.emitted ++ [⟨k, consumed⟩] }

/-- FLUSH (R102): report the pending run of unrecognised bytes, if there is one, and clear the count. -/
def State.flushSkip (s : State) : State :=
  if 0 < s.skip then { s.emit .unrecognizedBytes s.skip with skip := 0 } else s

/-- The ScanCursor as START creates it (R100, R156) and as it stands when discarded (R111): the registers that then hold no value
have those of reset (logs 1, 2). -/
def State.freshCursor (s : State) : State :=
  { s with
    off := 0, pm := none, skip := 0
    x := 0x00#8, ckA := 0x00#8, ckB := 0x00#8, len := 0x0000#16
    j := 0, i := 0, e := 0 }

/-- SCAN_END without its precondition (R111): flush, discard the ScanCursor, back to `Idle`. -/
def State.endPass (s : State) : State := { s.flushSkip.freshCursor with phase := .idle }

/-- The end of the pass in the same step that brings the cursor to the window's end (R14, R111; log 9). -/
def State.finishPass (s : State) : State :=
  if s.phase = .scanning ∧ s.wlen ≤ s.off then s.endPass else s

/-- Run `k` only while a pass is running: outside one there is no ScanCursor (R11, R18). -/
def inPass (s : State) (k : Out) : Out :=
  match s.phase with
  | .idle => .refused .noPass
  | .scanning => k

/-- Run `k` only if the cursor has a byte to look at (R101: `off < N`). -/
def atByte (s : State) (k : Out) : Out :=
  if s.off < s.wlen then k else .fault (.noSuchOffset s.off)

/-- Taking an exception, and reporting an item, in one operation (R142): append one result that accounts for the next `consumed`
bytes of the window and resume behind them (R113, R144). -/
def report (k : Kind) (consumed : Nat) (s : State) : Out :=
  if s.off + consumed ≤ s.wlen then .next { s.emit k consumed with off := s.off + consumed }
  else .fault (.noSuchOffset (s.off + consumed - 1))

/-- The next instruction's place after a result: there is no return instruction, the scan resumes at the cursor (R144). -/
def resumeOffset (s : State) : Nat := s.off

/-- Run `k` only for a payload the length field can declare (R17, R120). -/
def withPayload (P : Bytes) (k : Out) : Out :=
  if P.length ≤ 65535 then k else .refused .payloadTooLong

/-! ### The scratch registers -/

/-- What NMEA_FRAME writes (R71): `e` once the span is delimited, `i` once a `*` is found; a span that fails the first two tests
writes neither. -/
def State.writeFrameMarks (S : Bytes) (s : State) : State :=
  if spanDelimited S then
    match starIndex S with
    | none => { s with e := frameEnd S }
    | some k => { s with e := frameEnd S, i := k }
  else s

/-- What NMEA_DECODE writes (R70 to R72): the marks of its frame, and `x` where the structure is good. -/
def State.writeSentenceScratch (S : Bytes) (s : State) : State :=
  match nmeaFrame S with
  | none => s.writeFrameMarks S
  | some (k, _) => { s.writeFrameMarks S with x := nmeaXor (slice S 1 k) }

/-- What UBX_CK writes (R65). -/
def State.writeSums (D : Bytes) (s : State) : State :=
  { s with ckA := (ubxCk D).1, ckB := (ubxCk D).2 }

/-- What UBX_DECODE writes (R90): `len` where 8 bytes are there, the sums where the frame fits the slice. -/
def State.writeFrameScratch (S : Bytes) (s : State) : State :=
  if S.length < 8 then s
  else if 8 + (ubxLen S).toNat > S.length then { s with len := ubxLen S }
  else { s with len := ubxLen S }.writeSums (ubxCovered S)

/-- Hand a value to the caller (log 7). -/
def State.give (r : Ret) (s : State) : State := { s with ret := r }

end Sys2Proof.Machine
end

