-- ==== Sys2Proof/Machine/Commands.lean ====
section
/-! DEFINITION. Machine/Commands.lean: the meanings of the command builder (`44_command_builder.md`): BUILD, the seven frames by
name, and ROM_READ. A frame is handed to the transport-write collaborator as a value; the block sends nothing (R129). They run
in either phase; that BUILD leaves its sums in `ckA` and `ckB` outside a pass too is a DESIGN CHOICE, log 29. -/

namespace Sys2Proof.Machine

/-- Hand a frame of the ROM to its reader (R129): no side effect. -/
def presentFrame (f : RomFrame) (s : State) : Out := .next (s.give (.bytes (romFrameBytes f)))

/-- CMD.DISABLE_GLL (R121). -/
def execCmdDisableGll (s : State) : Out := presentFrame s.rom.disableGll s

/-- CMD.DISABLE_VTG (R122). -/
def execCmdDisableVtg (s : State) : Out := presentFrame s.rom.disableVtg s

/-- CMD.DISABLE_GSV (R123). -/
def execCmdDisableGsv (s : State) : Out := presentFrame s.rom.disableGsv s

/-- CMD.DISABLE_GSA (R124). -/
def execCmdDisableGsa (s : State) : Out := presentFrame s.rom.disableGsa s

/-- CMD.SET_NAVMODE (R125). -/
def execCmdSetNavmode (s : State) : Out := presentFrame s.rom.setNavmode s

/-- CMD.SET_LED (R126). -/
def execCmdSetLed (s : State) : Out := presentFrame s.rom.setLed s

/-- CMD.POLL_STOP (R127). -/
def execCmdPollStop (s : State) : Out := presentFrame s.rom.pollStop s

/-- BUILD (R120): the frame of a class, an id and a payload of at most 65535 bytes. -/
def execBuild (cls id : Byte) (payload : Bytes) (s : State) : Out :=
  withPayload payload
    (.next ((s.writeSums (ubxBody cls id payload)).give (.bytes (build cls id payload))))

/-- ROM_READ (R129): `ROM[k]`, in any phase. -/
def execRomRead (k : Fin 7) (s : State) : Out := presentFrame (romFrame s.rom k) s

end Sys2Proof.Machine
end

