-- ==== Sys2Proof/Machine/NmeaOps.lean ====
section
/-! DEFINITION. Machine/NmeaOps.lean: the meanings of the sentence decoder, its parts and the field parsers
(`41_nmea_decoder.md`). Each is a function of its operands that returns one outcome to its caller (R70, R146) and writes only
the scratch registers its rule names. They run in either phase; that outside a pass those registers are left written is a DESIGN CHOICE,
log 29. -/

namespace Sys2Proof.Machine

/-- NMEA_DECODE (R70): any span has an outcome (U3). -/
def execNmeaDecode (span : Bytes) (s : State) : Out :=
  .next ((s.writeSentenceScratch span).give (.sentence (nmeaDecode span)))

/-- NMEA_FRAME (R71). -/
def execNmeaFrame (span : Bytes) (s : State) : Out :=
  match nmeaFrame span with
  | some (i, cks) => .next ((s.writeFrameMarks span).give (.framed i cks))
  | none => .next ((s.writeFrameMarks span).give (.sentence .malformedSentence))

/-- NMEA_CKCHECK (R72): the XOR of the body against the parsed checksum. -/
def execNmeaCkcheck (span : Bytes) (star : Nat) (cks : Byte) (s : State) : Out :=
  let s := { s with x := nmeaXor (slice span 1 star) }
  if nmeaCkOk span star cks then .next (s.give .ckOk) else .next (s.give (.sentence .checksumMismatch))

/-- NMEA_TOKENIZE (R73): cannot fail. -/
def execNmeaTokenize (span : Bytes) (star : Nat) (s : State) : Out :=
  .next (s.give (.fields (nmeaTokenize span star)))

/-- NMEA_ADDR (R74): only field 0 is looked at. -/
def execNmeaAddr (f0 : Bytes) (_others : List Bytes) (s : State) : Out :=
  match nmeaAddr f0 with
  | some (talker, ty) => .next (s.give (.address talker ty))
  | none => .next (s.give (.sentence (.unsupportedSentenceType f0)))

/-- Hand back what a field parser finds, or its `fail` (R76 to R80). -/
def giveParsed {α : Type} (r : Option α) (mk : α → Ret) (s : State) : Out :=
  match r with
  | some v => .next (s.give (mk v))
  | none => .next (s.give .fail)

/-- PARSE_UINT (R76). -/
def execParseUint (t : Bytes) (s : State) : Out := giveParsed (parseUint t) .natural s

/-- PARSE_DEC (R77). -/
def execParseDec (t : Bytes) (s : State) : Out := giveParsed (parseDec t) .decimal s

/-- PARSE_ANGLE (R78). -/
def execParseAngle (t : Bytes) (nd : Nat) (s : State) : Out := giveParsed (parseAngle t nd) .degrees s

/-- PARSE_TIME (R79). -/
def execParseTime (t : Bytes) (s : State) : Out := giveParsed (parseTime t) .time s

/-- PARSE_HEMI_NS (R80). -/
def execParseHemiNs (t : Bytes) (s : State) : Out := giveParsed (parseHemiNs t) .sign s

/-- PARSE_HEMI_EW (R80). -/
def execParseHemiEw (t : Bytes) (s : State) : Out := giveParsed (parseHemiEw t) .sign s

/-- PARSE_STATUS (R80). -/
def execParseStatus (t : Bytes) (s : State) : Out := giveParsed (parseStatus t) .truth s

end Sys2Proof.Machine
end

