-- ==== Sys2Proof/Machine/Primitives.lean ====
section
/-! DEFINITION. Machine/Primitives.lean: the meanings of the checksum and codec primitives (`40_checksum.md`). They write
nothing but their accumulators, emit no result and cannot fail; they run in either phase. That outside a pass the accumulators are left
written is a DESIGN CHOICE, log 29. -/

namespace Sys2Proof.Machine

/-- NMEA_XOR (R62): the accumulator `x` holds the sum at the end. -/
def execNmeaXor (body : Bytes) (s : State) : Out :=
  .next ({ s with x := nmeaXor body }.give (.byte (nmeaXor body)))

/-- HEX2ENC (R63). -/
def execHex2Enc (v : Byte) (s : State) : Out :=
  .next (s.give (.digits (hex2Enc v).1 (hex2Enc v).2))

/-- HEX2DEC (R64). -/
def execHex2Dec (c1 c2 : Byte) (s : State) : Out :=
  match hex2Dec c1 c2 with
  | some v => .next (s.give (.byte v))
  | none => .next (s.give .invalid)

/-- UBX_CK (R65): the accumulators hold the sums at the end. -/
def execUbxCk (d : Bytes) (s : State) : Out :=
  .next ((s.writeSums d).give (.sums (ubxCk d).1 (ubxCk d).2))

/-- UBX_CK_VALID (R66): recomputes the sums and compares both bytes. -/
def execUbxCkValid (d : Bytes) (a b : Byte) (s : State) : Out :=
  .next ((s.writeSums d).give (.truth (ubxCkValid d a b)))

end Sys2Proof.Machine
end

