-- ==== Sys2Proof/Machine/Scanner.lean ====
section
/-! DEFINITION. Machine/Scanner.lean: the scanner operations as `43_scanner.md` lists them, each after its own pseudocode
(R100 to R111), reading the window at the cursor. The decoder-driven step of Machine/Step.lean is a second account of R101. -/

namespace Sys2Proof.Machine

/-- NMEA_INCOMPLETE (R104): the rest of the window is accounted for; the pass stops because `off = N`. R103 calls it only at a `$` whose
terminator the window cuts off; that it runs at any byte is a DESIGN CHOICE, log 28. -/
def execNmeaIncomplete (s : State) : Out :=
  inPass s (atByte s (report (.incompleteAtBoundary .nmea) (s.wlen - s.off) { s with pm := some .nmea }))

/-- NMEA_OVERLONG (R105): the `$` alone is given up. R103 calls it only at a `$` without a terminator within the bound; that it runs at
any byte is a DESIGN CHOICE, log 28. -/
def execNmeaOverlong (s : State) : Out :=
  inPass s (report .malformedSentence 1 s)

/-- The span `W[s .. j+1)` (R106). -/
def foundSpan (s : State) : Bytes := windowSlice s s.off (s.j + 1)

/-- NMEA_DISPATCH (R106): decode the span `W[off .. j+1)` and consume it whole, whatever the outcome. R103 calls it only with the span it
has found (R42: `$` first, the first `\n` last, within `MAXLEN`). Only `off < j` is tested here: that any other bytes behind the cursor are
dispatched all the same is a DESIGN CHOICE, log 28. -/
def execNmeaDispatch (s : State) : Out :=
  inPass s (
    if s.off < s.j then
      report (nmeaKind (nmeaDecode (foundSpan s))) (s.j + 1 - s.off) (s.writeSentenceScratch (foundSpan s))
    else .refused .noSpan)

/-- The search of R103 as a window offset: the least `k` with `s + 1 <= k < min(N, s + MAXLEN)` and `W[k] = \n`. -/
def terminatorOffset (s : State) : Option Nat :=
  (findByte chLF (fetchBytes s) 1 (min (s.wlen - s.off) s.maxlen)).map (s.off + ·)

/-- NMEA_SPAN (R103): a span, or one of the two cases without one, in which `j` gets no value from the rule and is left as it was: DESIGN
CHOICE, log 18. -/
def execNmeaSpan (s : State) : Out :=
  inPass s (atByte s (
    if windowByte s s.off = some chDollar then
      match terminatorOffset s with
      | some k => execNmeaDispatch { s with j := k }
      | none => if s.wlen ≤ s.off + s.maxlen then execNmeaIncomplete s else execNmeaOverlong s
    else .refused .notSentenceStart))

/-- UBX_INCOMPLETE (R108): the rest of the window is accounted for; the pass stops because `off = N`. R107 calls it only at a sync word
whose header the window cuts off; that it runs at any byte is a DESIGN CHOICE, log 28. -/
def execUbxIncomplete (s : State) : Out :=
  inPass s (atByte s (report (.incompleteAtBoundary .ubx) (s.wlen - s.off) { s with pm := some .ubx }))

/-- UBX_ACCEPT (R109): the message, and the cursor behind its frame. R107 calls it only with the decoder's outcome on the bytes at the
cursor; that it takes any message at any byte is a DESIGN CHOICE, log 28. -/
def execUbxAccept (r : UbxMessage) (s : State) : Out :=
  inPass s (withPayload (messageParts r).2.2 (report (messageKind r) (ubxOverhead + messageLen r) s))

/-- UBX_REJECT (R110): two bytes accounted for, scanning resumes behind the sync word. R107 calls it only with the decoder's outcome on
the bytes at the cursor; that it takes any failure at any byte is a DESIGN CHOICE, log 28. -/
def execUbxReject (r : UbxFailure) (s : State) : Out :=
  inPass s (report (failureKind r) 2 s)

/-- UBX_SPAN (R107): the header check, then the frame decoder on everything up to the window's end. -/
def execUbxSpan (s : State) : Out :=
  inPass s (atByte s (
    if startsSync (fetchBytes s) then
      if s.wlen < s.off + ubxHdr then execUbxIncomplete s
      else
        match ubxDecode (fetchBytes s) with
        | .accepted m => execUbxAccept m (s.writeFrameScratch (fetchBytes s))
        | .rejected f => execUbxReject f (s.writeFrameScratch (fetchBytes s))
    else .refused .notSyncWord))

/-- FLUSH (R102). It is called before a candidate and at the window's end only; that it reports a pending run at any byte, in the middle
of the run too, is a DESIGN CHOICE, log 28. -/
def execFlush (s : State) : Out := inPass s (.next s.flushSkip)

/-- STEP (R101): one dispatch on `W[off]`. -/
def execStep (s : State) : Out :=
  inPass s (atByte s (
    if windowByte s s.off = some chDollar then execNmeaSpan s.flushSkip
    else if windowByte s s.off = some sync1 ∧ windowByte s (s.off + 1) = some sync2 then execUbxSpan s.flushSkip
    else .next { s with skip := s.skip + 1, off := s.off + 1 }))

/-- SCAN_END (R111): at `off = N`. -/
def execScanEnd (s : State) : Out :=
  inPass s (if s.off < s.wlen then .refused .notAtEnd else .next s.endPass)

/-- The beginning of a pass (R100, R156): the window is lent, R is empty, a fresh ScanCursor. An absent or empty window gives the
one result `InvalidWindow /0` and the block is `Idle` at once (R139). -/
def State.startPass (w : Option Bytes) (s : State) : State :=
  match w with
  | none => { s with mem := [], wlen := 0, results := [] }.emit .invalidWindow 0
  | some [] => { s with mem := [], wlen := 0, results := [] }.emit .invalidWindow 0
  | some (b :: bs) =>
    { s.freshCursor with phase := .scanning, mem := memoryLoad (b :: bs), wlen := (b :: bs).length, results := [] }

/-- Repeat STEP until `off = N`, then SCAN_END (R100, R111); `fuel` bounds the number of steps, and N of them are enough (R113). -/
def scanLoop : Nat → State → Out
  | 0, s => execScanEnd s
  | fuel + 1, s =>
    if s.off < s.wlen then
      match execStep s with
      | .next t => scanLoop fuel t
      | .fault r => .fault r
      | .refused r => .refused r
    else execScanEnd s

/-- SCAN (R100): the whole pass over one window, from START to DONE (log 12). -/
def execScan (w : Option Bytes) (s : State) : Out :=
  match s.phase with
  | .scanning => .refused .passRunning
  | .idle =>
    match (s.startPass w).phase with
    | .idle => .next (s.startPass w)
    | .scanning => scanLoop (s.startPass w).wlen (s.startPass w)

/-- The pass as a pure function of window and bound, the listing of R114 (R11: `Scan(W, N, MAXLEN) -> R`): `bs` is what is left of
the window, `skip` the pending count, and `fuel` a bound on the number of steps. -/
def listingFrom (maxlen : Nat) : Nat → Nat → Bytes → List Result
  | 0, skip, _ => if 0 < skip then [⟨.unrecognizedBytes, skip⟩] else []
  | _ + 1, skip, [] => if 0 < skip then [⟨.unrecognizedBytes, skip⟩] else []
  | fuel + 1, skip, b :: rest =>
    let bs := b :: rest
    let flushed : List Result := if 0 < skip then [⟨.unrecognizedBytes, skip⟩] else []
    if b = chDollar then
      match findByte chLF bs 1 (min bs.length maxlen) with
      | some j => flushed ++ ⟨nmeaKind (nmeaDecode (bs.take (j + 1))), j + 1⟩ :: listingFrom maxlen fuel 0 (bs.drop (j + 1))
      | none =>
        if bs.length ≤ maxlen then flushed ++ [⟨.incompleteAtBoundary .nmea, bs.length⟩]
        else flushed ++ ⟨.malformedSentence, 1⟩ :: listingFrom maxlen fuel 0 rest
    else if startsSync bs then
      if bs.length < ubxHdr then flushed ++ [⟨.incompleteAtBoundary .ubx, bs.length⟩]
      else
        match ubxDecode bs with
        | .rejected f => flushed ++ ⟨failureKind f, 2⟩ :: listingFrom maxlen fuel 0 (bs.drop 2)
        | .accepted m =>
          flushed ++ ⟨messageKind m, 8 + messageLen m⟩ :: listingFrom maxlen fuel 0 (bs.drop (8 + messageLen m))
    else listingFrom maxlen fuel (skip + 1) rest

/-- `Scan(W, N, MAXLEN) -> R` (R11, R114, R117). -/
def scanListing (maxlen : Nat) (w : Option Bytes) : List Result :=
  match w with
  | none => [⟨.invalidWindow, 0⟩]
  | some [] => [⟨.invalidWindow, 0⟩]
  | some (b :: bs) => listingFrom maxlen (b :: bs).length 0 (b :: bs)

end Sys2Proof.Machine
end

