-- ==== Sys2Proof/Machine/UbxOps.lean ====
section
/-! DEFINITION. Machine/UbxOps.lean: the meaning of the frame decoder as an operation (`42_ubx_decoder.md`). -/

namespace Sys2Proof.Machine

/-- UBX_DECODE (R90): a slice of 8 or more bytes must start with the sync word (check 2, R95). It runs
in either phase; that outside a pass it leaves `len`, `ckA` and `ckB` written is a DESIGN CHOICE, log 29. -/
def execUbxDecode (slice : Bytes) (s : State) : Out :=
  if slice.length < 8 ∨ startsSync slice then
    .next ((s.writeFrameScratch slice).give (.frame (ubxDecode slice)))
  else .refused .notSyncWord

end Sys2Proof.Machine
end

