-- ==== Sys2Proof/Machine/WireItems.lean ====
section
/-! DEFINITION. Machine/WireItems.lean: the meanings of the seven wire items (R56). Each reports its one result and moves the
cursor behind the item (R106, R109, R113), or counts an unrecognised byte (R101). The flush that R101 makes before a candidate
and the scratch registers written while it was recognised are made by the step (log 10). -/

namespace Sys2Proof.Machine

/-- NMEA.RMC (R82, R85): a fix or `FieldFormatError`, consumed whole. -/
def execNmeaRmc (t : SentenceText) (s : State) : Out :=
  inPass s (report (nmeaKind (fixOutcome (rmcFix t.fields))) (sentenceSpan t).length s)

/-- NMEA.GGA (R83, R85): a fix or `FieldFormatError`, consumed whole. -/
def execNmeaGga (t : SentenceText) (s : State) : Out :=
  inPass s (report (nmeaKind (fixOutcome (ggaFix t.fields))) (sentenceSpan t).length s)

/-- NMEA.OTHER (R75, R85): malformed, of wrong checksum, or of an unsupported type, consumed whole. -/
def execNmeaOther (span : Bytes) (s : State) : Out :=
  inPass s (report (nmeaKind (otherOutcome span)) span.length s)

/-- UBX.ACK (R91, R96). -/
def execUbxAck (ackClass ackId : Byte) (s : State) : Out :=
  inPass s (report (.ack ackClass ackId) (ubxOverhead + 2) s)

/-- UBX.NAK (R92, R96). -/
def execUbxNak (ackClass ackId : Byte) (s : State) : Out :=
  inPass s (report (.nak ackClass ackId) (ubxOverhead + 2) s)

/-- UBX.FRAME (R93, R96): the payload by value (R94). -/
def execUbxFrame (cls id : Byte) (payload : Bytes) (s : State) : Out :=
  inPass s (withPayload payload
    (report (.ubxFrame cls id (BitVec.ofNat 16 payload.length) payload) (ubxOverhead + payload.length) s))

/-- SKIP (R101, third branch): counted, not yet reported; the byte itself is not looked at again (log 26). -/
def execSkip (_b : Byte) (s : State) : Out :=
  inPass s (atByte s (.next { s with skip := s.skip + 1, off := s.off + 1 }))

end Sys2Proof.Machine
end

