-- ==== Sys2Proof/Machine/Dispatch.lean ====
section
/-! DEFINITION. Machine/Dispatch.lean: one arm per instruction, each a direct call of its meaning. -/

namespace Sys2Proof.Machine

def exec (i : Instr) (s : State) : Host.Outcome State Fault Refusal :=
  match i with
  | .nmeaRmc t => Sys2Proof.Machine.execNmeaRmc t s
  | .nmeaGga t => Sys2Proof.Machine.execNmeaGga t s
  | .nmeaOther span => Sys2Proof.Machine.execNmeaOther span s
  | .ubxAck ackClass ackId => Sys2Proof.Machine.execUbxAck ackClass ackId s
  | .ubxNak ackClass ackId => Sys2Proof.Machine.execUbxNak ackClass ackId s
  | .ubxFrame cls id payload => Sys2Proof.Machine.execUbxFrame cls id payload s
  | .skip b => Sys2Proof.Machine.execSkip b s
  | .cmdDisableGll => Sys2Proof.Machine.execCmdDisableGll s
  | .cmdDisableVtg => Sys2Proof.Machine.execCmdDisableVtg s
  | .cmdDisableGsv => Sys2Proof.Machine.execCmdDisableGsv s
  | .cmdDisableGsa => Sys2Proof.Machine.execCmdDisableGsa s
  | .cmdSetNavmode => Sys2Proof.Machine.execCmdSetNavmode s
  | .cmdSetLed => Sys2Proof.Machine.execCmdSetLed s
  | .cmdPollStop => Sys2Proof.Machine.execCmdPollStop s
  | .nmeaXor body => Sys2Proof.Machine.execNmeaXor body s
  | .hex2Enc v => Sys2Proof.Machine.execHex2Enc v s
  | .hex2Dec c1 c2 => Sys2Proof.Machine.execHex2Dec c1 c2 s
  | .ubxCk d => Sys2Proof.Machine.execUbxCk d s
  | .ubxCkValid d a b => Sys2Proof.Machine.execUbxCkValid d a b s
  | .nmeaDecode span => Sys2Proof.Machine.execNmeaDecode span s
  | .nmeaFrame span => Sys2Proof.Machine.execNmeaFrame span s
  | .nmeaCkcheck span star cks => Sys2Proof.Machine.execNmeaCkcheck span star cks s
  | .nmeaTokenize span star => Sys2Proof.Machine.execNmeaTokenize span star s
  | .nmeaAddr f0 others => Sys2Proof.Machine.execNmeaAddr f0 others s
  | .parseUint t => Sys2Proof.Machine.execParseUint t s
  | .parseDec t => Sys2Proof.Machine.execParseDec t s
  | .parseAngle t nd => Sys2Proof.Machine.execParseAngle t nd s
  | .parseTime t => Sys2Proof.Machine.execParseTime t s
  | .parseHemiNs t => Sys2Proof.Machine.execParseHemiNs t s
  | .parseHemiEw t => Sys2Proof.Machine.execParseHemiEw t s
  | .parseStatus t => Sys2Proof.Machine.execParseStatus t s
  | .ubxDecode slice => Sys2Proof.Machine.execUbxDecode slice s
  | .scan w => Sys2Proof.Machine.execScan w s
  | .step => Sys2Proof.Machine.execStep s
  | .flush => Sys2Proof.Machine.execFlush s
  | .nmeaSpan => Sys2Proof.Machine.execNmeaSpan s
  | .nmeaIncomplete => Sys2Proof.Machine.execNmeaIncomplete s
  | .nmeaOverlong => Sys2Proof.Machine.execNmeaOverlong s
  | .nmeaDispatch => Sys2Proof.Machine.execNmeaDispatch s
  | .ubxSpan => Sys2Proof.Machine.execUbxSpan s
  | .ubxIncomplete => Sys2Proof.Machine.execUbxIncomplete s
  | .ubxAccept r => Sys2Proof.Machine.execUbxAccept r s
  | .ubxReject r => Sys2Proof.Machine.execUbxReject r s
  | .scanEnd => Sys2Proof.Machine.execScanEnd s
  | .build cls id payload => Sys2Proof.Machine.execBuild cls id payload s
  | .romRead k => Sys2Proof.Machine.execRomRead k s

end Sys2Proof.Machine
end

