-- ==== Sys2Proof/Machine/Control.lean ====
section
/-! DEFINITION. Machine/Control.lean: one step of the machine. In phase `Scanning` it is one execution of R101: recognise the item
at the cursor, run it, and end the pass if nothing is left (D1: the unit of progress). Between them the host's moves (R10) land,
each in a step of its own (log 5). -/

namespace Sys2Proof.Machine

/-- What R101 does before the item's own rule, by the first bytes `bs = W[off..N)`: for a candidate it flushes (R102), and the
scratch registers are written as the candidate is recognised (R103, R71, R72, R90); a byte that starts nothing does neither. Where the
search of R103 finds no terminator, `j` is left as it was: DESIGN CHOICE, log 18. -/
def State.recognise (bs : Bytes) (s : State) : State :=
  if bs.head? = some chDollar then
    match terminator s.maxlen bs with
    | some k => { s.flushSkip with j := s.off + k }.writeSentenceScratch (bs.take (k + 1))
    | none => s.flushSkip
  else if startsSync bs then
    if bs.length < ubxHdr then s.flushSkip else s.flushSkip.writeFrameScratch bs
  else s

/-- The end of the pass after an item (R111). -/
def thenFinish : Out → Out
  | .next t => .next t.finishPass
  | .fault r => .fault r
  | .refused r => .refused r

/-- One step of a running pass: recognise and decode the item at the cursor, run it, end the pass if it is over. -/
def scanStep (s : State) : Out :=
  match decode s.maxlen (fetchBytes s) with
  | .ok i => thenFinish (exec i (s.recognise (fetchBytes s)))
  | .error .noByte => .refused .noByte

/-- One step of the block: nothing happens in `Idle` (log 25); a pass whose window is exhausted ends (R111). -/
def blockStep (s : State) : Out :=
  match s.phase with
  | .idle => .next s
  | .scanning => if s.off < s.wlen then scanStep s else .next s.endPass

/-- A power-on reset (R155): the pass is abandoned; what the host has received and its further moves are not the block's. -/
def State.powerOn (q : List HostMove) (s : State) : State :=
  { State.reset with inbox := q, emitted := s.emitted }

/-- The host's write of `CFG.MAXLEN` (R26): in `Idle`, with a value of at least 1 (U5). -/
def writeMaxlen (v : Nat) (s : State) : Out :=
  if v = 0 then .refused .maxlenZero else .next { s with maxlen := v }

/-- One step of the machine: the host's oldest move if it can be made now, else one step of the block. START and the write of
`CFG.MAXLEN` exist only in `Idle` (R18, R26): in a running pass they wait. -/
def machineStep (s : State) : Out :=
  match s.inbox with
  | [] => blockStep s
  | .wait :: q => blockStep { s with inbox := q }
  | .reset :: q => .next (s.powerOn q)
  | .romRead k :: q => exec (.romRead k) { s with inbox := q }
  | .start w :: q =>
    match s.phase with
    | .idle => .next ({ s with inbox := q }.startPass w)
    | .scanning => blockStep s
  | .writeMaxlen v :: q =>
    match s.phase with
    | .idle => writeMaxlen v { s with inbox := q }
    | .scanning => blockStep s

/-- A pass at the front of a window that holds exactly `bs` (R100): what the host's START sets up. -/
def State.placeWindow (bs : Bytes) (s : State) : State :=
  { s.freshCursor with
    phase := .scanning, mem := memoryLoad bs, wlen := bs.length, results := [], inbox := [] }

end Sys2Proof.Machine
end

