-- ==== Sys2Proof/Machine/Step.lean ====
section
/-! DEFINITION. Machine/Step.lean: the step of the machine, and how the host of this package places one instruction for it. -/

namespace Sys2Proof.Machine

/-- One step (Machine/Control.lean). -/
def step (s : State) : Host.Outcome State Fault Refusal := machineStep s

/-- `s` with the instruction of a table word as the whole window of a pass that has just begun, so that the next step runs it. It
stands for the host's START (log 6). -/
def State.withFetchWord (s : State) (nbits w : Nat) : State := s.placeWindow (tableWordBytes nbits w)

end Sys2Proof.Machine
end

