-- ==== Sys2Proof/Machine/Routing.lean ====
section
/-! DEFINITION. Machine/Routing.lean: what stands at the block's output boundary (R84, R115, R131) and how the host builds the next
window (R116): functions of the result stream, beside the machine. -/

namespace Sys2Proof.Machine

/-- The numeric code of a kind of result (R131, D12): a label, no rule computes with it. -/
def kindCode : Kind → Nat
  | .malformedSentence => 1
  | .checksumMismatch _ => 2
  | .fieldFormatError _ => 3
  | .unsupportedSentenceType _ => 4
  | .truncatedFrame => 5
  | .incompleteAtBoundary _ => 6
  | .unrecognizedBytes => 7
  | .invalidWindow => 8
  | .positionFix _ => 16
  | .ack _ _ => 17
  | .nak _ _ => 18
  | .ubxFrame _ _ _ _ => 19

/-- A fix as the position sink receives it: `FLOAT_ROUND` applied once to each delivered number, latitude, longitude and HDOP (R84)
and the seconds (D22, which R84 cites; U8; log 15). The naturals and the flag are delivered as they are. -/
def deliver (f : PositionFix) : PositionFix :=
  { f with
    lat := Config.floatRound f.lat
    lon := Config.floatRound f.lon
    utc := { f.utc with ss := Config.floatRound f.utc.ss }
    hdop := f.hdop.map Config.floatRound }

/-- The fix of a result, if it is one. -/
def fixOf (r : Result) : Option PositionFix :=
  match r.kind with
  | .positionFix f => some f
  | _ => none

/-- What the position sink receives: exactly the `PositionFix` results, in order (R38, R115). R115 speaks of results, R20 and R84 of the
record's numbers: that the sink is handed the record alone, without the result's `consumed`, is a DESIGN CHOICE, log 27. -/
def positionSink (R : List Result) : List PositionFix := (R.filterMap fixOf).map deliver

/-- The results that are not for the position sink, in order (R115). -/
def diagnostics (R : List Result) : List Result := R.filter fun r => (fixOf r).isNone

/-- What the diagnostics sink receives: nothing where it is absent (R115, D34). -/
def diagnosticsSink (R : List Result) : List Result :=
  if Config.diagSinkPresent then diagnostics R else []

/-- The tail an `IncompleteAtBoundary` marks (R116): its count of bytes at the end of the window. -/
def incompleteTail (window : Bytes) (R : List Result) : Bytes :=
  match R.getLast? with
  | some ⟨.incompleteAtBoundary _, c⟩ => window.drop (window.length - c)
  | _ => []

/-- The window of the host's next START (R116): under `prepend_tail` the tail of the last pass stands before the new half. -/
def nextWindow (policy : CarryPolicy) (window : Bytes) (R : List Result) (half : Bytes) : Bytes :=
  match policy with
  | .none => half
  | .prependTail => incompleteTail window R ++ half

end Sys2Proof.Machine
end

