-- ==== Sys2Proof/Safety.lean ====
section
/-! DEFINITION. Safety.lean: what counts as a good state and a good result stream, in the terms the statements use (R13, R38, R102,
R112). -/

namespace Sys2Proof.Machine

/-- The bytes a result stream accounts for (R112). -/
def consumedSum (R : List Result) : Nat := (R.map Result.consumed).sum

/-- Every result accounts for at least one byte, but for `InvalidWindow`, which accounts for none (R112). -/
def resultSound (r : Result) : Bool :=
  match r.kind with
  | .invalidWindow => r.consumed == 0
  | _ => decide (1 ≤ r.consumed)

/-- A result that reports a run of unrecognised bytes. -/
def isRun (r : Result) : Bool := r.kind == .unrecognizedBytes

/-- No two results of the kind `UnrecognizedBytes` stand side by side (R102). -/
def runsSeparated : List Result → Bool
  | [] => true
  | [_] => true
  | r :: r' :: R => !(isRun r && isRun r') && runsSeparated (r' :: R)

/-- The last result so far is not a run of unrecognised bytes (R102): a run is reported only when a candidate or the window's end
stands behind it, so a later run is never reported right behind it. -/
def noRunLast (R : List Result) : Bool :=
  match R.getLast? with
  | none => true
  | some r => !isRun r

/-- In a running pass the cursor stands before the window's end, behind the bytes accounted for and the pending run (R13); outside
one, all bytes of the last window are accounted for (R112). -/
def accounted (s : State) : Prop :=
  match s.phase with
  | .scanning => s.off < s.wlen ∧ s.off = consumedSum s.results + s.skip
  | .idle => consumedSum s.results = s.wlen

/-- The registers of the ScanCursor stand as discarded (R11, R111; log 2). -/
def cursorDiscarded (s : State) : Prop := s = s.freshCursor

/-- The window is in canonical form and within its length (R30; log 3). -/
def memorySound (s : State) : Prop := memoryWf s.wlen s.mem = true

/-- The states of the block: what every step keeps. -/
structure Inv (s : State) : Prop where
  mem : memorySound s
  maxlen : 1 ≤ s.maxlen
  rom : s.rom = romContents
  accounted : accounted s
  sound : s.results.all resultSound = true
  separated : runsSeparated s.results = true
  pending : s.phase = .scanning → noRunLast s.results = true
  partialMatch : s.phase = .scanning → s.pm = none
  discarded : s.phase = .idle → cursorDiscarded s

end Sys2Proof.Machine
end

