-- ==== Sys2Proof/Certificates/Slice0/Obligations.lean ====
section
/-! DEFINITION. Certificates/Slice0/Obligations.lean: the statements about the block, in the order: encodings, the window, the
step and the pass, the scanner operations, the wire items, the primitives, the sentence decoder, the frame decoder, the ROM, the
boundary. An equation `exec i s = .next { s with … }` says the result, that everything not named is unchanged, and that the
instruction completes. -/

namespace Sys2Proof.Machine

/-- A pass is running and at least `n` bytes of its window are left (R13). -/
def passWith (n : Nat) (s : State) : Prop := s.phase = .scanning ∧ s.off + n ≤ s.wlen

/-- `s` after one result of kind `k` for the next `c` bytes (R113, R142): appended to R, handed over, cursor behind the bytes. -/
def after (k : Kind) (c : Nat) (s : State) : State :=
  { s with
    results := s.results ++ [⟨k, c⟩]
    emitted := s.emitted ++ [⟨k, c⟩]
    off := s.off + c }

/-- The value of field `n` under a parser, if the field exists and parses (R81). -/
def fieldValue {α : Type} (f : List Bytes) (n : Nat) (parse : Bytes → Option α) : Option α := f[n]?.bind parse

/-- Whether field `n` of an RMC sentence exists and has its format (R52). -/
def rmcFieldOk (f : List Bytes) : Nat → Bool
  | 1 => (fieldValue f 1 parseTime).isSome
  | 2 => (fieldValue f 2 parseStatus).isSome
  | 3 => (fieldValue f 3 (parseAngle · 2)).isSome
  | 4 => (fieldValue f 4 parseHemiNs).isSome
  | 5 => (fieldValue f 5 (parseAngle · 3)).isSome
  | 6 => (fieldValue f 6 parseHemiEw).isSome
  | _ => true

/-- Whether field `n` of a GGA sentence exists and has its format (R53). -/
def ggaFieldOk (f : List Bytes) : Nat → Bool
  | 1 => (fieldValue f 1 parseTime).isSome
  | 2 => (fieldValue f 2 (parseAngle · 2)).isSome
  | 3 => (fieldValue f 3 parseHemiNs).isSome
  | 4 => (fieldValue f 4 (parseAngle · 3)).isSome
  | 5 => (fieldValue f 5 parseHemiEw).isSome
  | 6 => (fieldValue f 6 parseUint).isSome
  | 7 => (fieldValue f 7 parseUint).isSome
  | 8 => (fieldValue f 8 parseDec).isSome
  | _ => true

/-- The operations that run outside a pass too and touch neither the cursor nor the result stream (R62 to R80, R90, R120, R129). -/
def isPureOperation : Instr → Bool
  | .nmeaXor _ | .hex2Enc _ | .hex2Dec _ _ | .ubxCk _ | .ubxCkValid _ _ _ => true
  | .nmeaDecode _ | .nmeaFrame _ | .nmeaCkcheck _ _ _ | .nmeaTokenize _ _ | .nmeaAddr _ _ => true
  | .parseUint _ | .parseDec _ | .parseAngle _ _ | .parseTime _ => true
  | .parseHemiNs _ | .parseHemiEw _ | .parseStatus _ | .ubxDecode _ | .build _ _ _ | .romRead _ => true
  | .cmdDisableGll | .cmdDisableVtg | .cmdDisableGsv | .cmdDisableGsa => true
  | .cmdSetNavmode | .cmdSetLed | .cmdPollStop => true
  | .nmeaRmc _ | .nmeaGga _ | .nmeaOther _ | .ubxAck _ _ | .ubxNak _ _ | .ubxFrame _ _ _ | .skip _ => false
  | .scan _ | .step | .flush | .nmeaSpan | .nmeaIncomplete | .nmeaOverlong | .nmeaDispatch => false
  | .ubxSpan | .ubxIncomplete | .ubxAccept _ | .ubxReject _ | .scanEnd => false

/-- The operations of a running pass (R11, R18): the wire items and the scanner's own. -/
def isPassOperation (i : Instr) : Bool := !isPureOperation i && (match i with | .scan _ => false | _ => true)

/-- How many bytes of the window an item's one result accounts for (R105, R106, R109, R110, R113), where its operands say it. -/
def reportedLength : Instr → Option Nat
  | .nmeaRmc t | .nmeaGga t => some (sentenceSpan t).length
  | .nmeaOther S => some S.length
  | .ubxAck _ _ | .ubxNak _ _ => some 10
  | .ubxFrame _ _ P => if P.length ≤ 65535 then some (8 + P.length) else none
  | .ubxAccept m => if messageLen m ≤ 65535 then some (8 + messageLen m) else none
  | .nmeaOverlong => some 1
  | .ubxReject _ => some 2
  | .nmeaXor _ | .hex2Enc _ | .hex2Dec _ _ | .ubxCk _ | .ubxCkValid _ _ _ => none
  | .nmeaDecode _ | .nmeaFrame _ | .nmeaCkcheck _ _ _ | .nmeaTokenize _ _ | .nmeaAddr _ _ => none
  | .parseUint _ | .parseDec _ | .parseAngle _ _ | .parseTime _ => none
  | .parseHemiNs _ | .parseHemiEw _ | .parseStatus _ | .ubxDecode _ | .build _ _ _ | .romRead _ => none
  | .cmdDisableGll | .cmdDisableVtg | .cmdDisableGsv | .cmdDisableGsa => none
  | .cmdSetNavmode | .cmdSetLed | .cmdPollStop => none
  | .skip _ | .scan _ | .step | .flush | .nmeaSpan | .nmeaIncomplete | .nmeaDispatch => none
  | .ubxSpan | .ubxIncomplete | .scanEnd => none

end Sys2Proof.Machine

open Sys2Proof Sys2Proof.Machine

/-! ### Encodings -/

/-- Decode and encode agree on every well-formed wire item, whatever follows it in the window (R46 to R49, R54, R55, R58). A
skipped byte must not be made the start of a sync word by what follows (R101). -/
def Obligations.DecodeOfEncodedItem : Prop :=
  ∀ (maxlen : Nat) (i : Instr) (bs rest : Bytes),
    i.isWireItem = true → i.wellFormed maxlen = true → encode i = some bs →
    ((∃ b, i = .skip b) → startsSync (bs ++ rest) = false) →
    decode maxlen (bs ++ rest) = .ok i

/-- What the decoder answers is well formed, and a wire item it answers stands, by its encoding, at the front of the bytes (R56,
R61). -/
def Obligations.DecodedItemStandsInTheWindow : Prop :=
  ∀ (maxlen : Nat) (bs : Bytes) (i : Instr), decode maxlen bs = .ok i →
    i.wellFormed maxlen = true ∧
    (i.isWireItem = true → ∃ front rest, encode i = some front ∧ bs = front ++ rest)

/-- Words of the document and of the spec's vectors decode to the items they stand for (S3, UB6, UB14, UB15, NM9). -/
def Obligations.SampleWordsDecode : Prop :=
  decode 82 [0xB5#8, 0x62#8, 0x06#8, 0x01#8, 0x03#8, 0x00#8, 0xF0#8, 0x01#8, 0x00#8, 0xFB#8, 0x11#8]
      = .ok (.ubxFrame 0x06#8 0x01#8 [0xF0#8, 0x01#8, 0x00#8]) ∧
  decode 82 [0xB5#8, 0x62#8, 0x05#8, 0x01#8, 0x02#8, 0x00#8, 0x06#8, 0x01#8, 0x0F#8, 0x38#8] = .ok (.ubxAck 0x06#8 0x01#8) ∧
  decode 82 [0xB5#8, 0x62#8, 0x05#8, 0x00#8, 0x02#8, 0x00#8, 0x06#8, 0x24#8, 0x31#8, 0x56#8] = .ok (.ubxNak 0x06#8 0x24#8) ∧
  decode 82 [0x24#8, 0x2A#8, 0x30#8, 0x30#8, 0x0A#8] = .ok (.nmeaOther [0x24#8, 0x2A#8, 0x30#8, 0x30#8, 0x0A#8]) ∧
  decode 82 [0xB5#8, 0x78#8] = .ok (.skip 0xB5#8)

/-- A frame cut by the window's end (R108, R136, R137, R163): with fewer than its 6 header bytes it is incomplete, with the header
but not the end it is truncated. -/
def Obligations.CutFrameIsIncompleteOrTruncated : Prop :=
  ∀ (maxlen : Nat) (cls id : Byte) (P : Bytes) (n : Nat), P.length ≤ 65535 →
    (2 ≤ n → n < 6 → decode maxlen ((build cls id P).take n) = .ok .ubxIncomplete) ∧
    (6 ≤ n → n < 8 + P.length → decode maxlen ((build cls id P).take n) = .ok (.ubxReject .truncatedFrame))

/-! ### The window -/

/-- START lends the window: every offset below N reads the byte the host put there, no other offset is readable (R30, R31). -/
def Obligations.LentWindowReadsBack : Prop :=
  ∀ (s : State) (bs : Bytes) (q : List HostMove) (a : Nat), s.phase = .idle → s.inbox = .start (some bs) :: q → bs ≠ [] →
    ∃ t, step s = .next t ∧ t.wlen = bs.length ∧ memorySound t ∧ windowByte t a = bs[a]? ∧ fetchBytes t = bs

/-- No instruction but SCAN, which is handed a new window, changes a byte of the window, its length, the configuration or the ROM
(R7, R26, R27, R30, R31: there is no MemWrite), and the result stream is only ever appended to (R19). -/
def Obligations.NoInstructionWritesTheWindow : Prop :=
  ∀ (i : Instr) (s t : State), (∀ w, i ≠ .scan w) → exec i s = .next t →
    (∀ a, windowByte t a = windowByte s a) ∧ t.wlen = s.wlen ∧ t.maxlen = s.maxlen ∧ t.rom = s.rom ∧ t.inbox = s.inbox ∧
    ∃ R, t.results = s.results ++ R ∧ t.emitted = s.emitted ++ R

/-! ### The step and the pass -/

/-- With no host move pending, a step of a running pass is `exec` of the item decoded at the cursor, on the state in which the
pending run is flushed and the scratch registers are written (log 10), followed by the end of the pass if nothing is left. -/
def Obligations.StepRunsTheDecodedItem : Prop :=
  ∀ (s : State) (i : Instr), s.inbox = [] → s.phase = .scanning → s.off < s.wlen →
    decode s.maxlen (fetchBytes s) = .ok i →
    step s = thenFinish (exec i (s.recognise (fetchBytes s)))

/-- The decoder-driven step and the spec's own listing of a step (R101 with R102 to R110) are one and the same. -/
def Obligations.StepIsTheScannerStep : Prop :=
  ∀ s : State, s.inbox = [] → s.phase = .scanning → s.off < s.wlen → step s = thenFinish (exec .step s)

/-- Every step keeps the block's invariant (R13, R26, R27, R102, R111, R112). What the registers of a discarded ScanCursor hold is the
model's choice (log 2). -/
def Obligations.EveryStepKeepsTheInvariant : Prop :=
  ∀ s t : State, Inv s → step s = .next t → Inv t

/-- What a power-on reset leaves (R29, R155): `Idle`, `CFG.MAXLEN = 82`, R empty, the ROM its contents; it has the invariant. The registers
without a reset value hold the model's (log 1). -/
def Obligations.ResetHasTheInvariant : Prop :=
  Inv State.reset ∧ State.reset.phase = .idle ∧ State.reset.maxlen = 82 ∧ State.reset.results = [] ∧ State.reset.rom = romContents

/-- No window makes the block fault, hang or refuse (R117, R140): from a state of the block every step completes, but for a host
that writes 0 to `CFG.MAXLEN` in `Idle`, the one phase in which the write has a place (R26, U5). The spec gives no move for a START or a
write in a running pass (U4, U5) and no transition for `Idle` without a move: that such moves wait while the pass goes on (log 5) and
that the step in `Idle` then changes nothing (log 25) is the model's choice. -/
def Obligations.EveryStepCompletes : Prop :=
  ∀ s : State, Inv s → (s.phase = .idle → ∀ q, s.inbox ≠ .writeMaxlen 0 :: q) → ∃ t, step s = .next t

/-- One step of a pass moves the cursor forward and never past the window's end (R13, R113). -/
def Obligations.StepMovesTheCursorForward : Prop :=
  ∀ s t : State, exec .step s = .next t → s.off < t.off ∧ t.off ≤ t.wlen

/-- START and at most N steps make the pass that SCAN stands for (R18, R100, R113): stepping the machine from a pending START reaches
the state SCAN answers. The number of steps is the model's choice: START is a step of its own and the pass ends in the step of its last
item (log 9), and where fewer than N steps make the pass, the steps left over, in `Idle` with no move pending, change nothing (log 25).
That `exec` of SCAN is the whole pass is log 12. -/
def Obligations.SteppingAPassIsScan : Prop :=
  ∀ (s : State) (w : Option Bytes), s.phase = .idle → s.inbox = [] →
    Sys2Proof.core.run ((w.getD []).length + 1) { s with inbox := [.start w] } = exec (.scan w) s

/-- SCAN is a total function of the window and `CFG.MAXLEN` (R11, R114, R117): it completes in `Idle`, its result stream is the
listing's, the window stays as lent, and configuration, ROM, host moves and the caller's value are as before. -/
def Obligations.ScanIsTheListing : Prop :=
  ∀ (s : State) (w : Option Bytes), s.phase = .idle →
    ∃ t, exec (.scan w) s = .next t ∧ t.phase = .idle ∧ t.results = scanListing s.maxlen w ∧
      t.emitted = s.emitted ++ scanListing s.maxlen w ∧ t.wlen = (w.getD []).length ∧ (∀ a, windowByte t a = (w.getD [])[a]?) ∧
      t.maxlen = s.maxlen ∧ t.rom = s.rom ∧ t.inbox = s.inbox ∧ t.ret = s.ret

/-- The results of a pass account for the window exactly, each but `InvalidWindow` for at least one byte (R112), and two results of
the kind `UnrecognizedBytes` are never adjacent (R102). -/
def Obligations.ScanAccountsForEveryByte : Prop :=
  ∀ (s t : State) (w : Option Bytes), s.phase = .idle → exec (.scan w) s = .next t →
    consumedSum t.results = (w.getD []).length ∧ t.results.all resultSound = true ∧ runsSeparated t.results = true

/-- A START in `Idle` begins a pass on a fresh cursor with an empty R (R100, R156); an absent or empty window gives the one result
`InvalidWindow /0` and leaves the block `Idle` (R139). The scratch registers' values are the model's (logs 1, 2). -/
def Obligations.StartBeginsAFreshPass : Prop :=
  ∀ (s : State) (q : List HostMove), s.phase = .idle →
    (∀ b bs, s.inbox = .start (some (b :: bs)) :: q →
      ∃ t, step s = .next t ∧ t.phase = .scanning ∧ t.off = 0 ∧ t.pm = none ∧ t.skip = 0 ∧ t.results = [] ∧
        t.wlen = (b :: bs).length ∧ t.maxlen = s.maxlen ∧ t.rom = s.rom ∧ t.inbox = q ∧ t.emitted = s.emitted) ∧
    ((s.inbox = .start none :: q ∨ s.inbox = .start (some []) :: q) →
      ∃ t, step s = .next t ∧ t.phase = .idle ∧ t.results = [⟨.invalidWindow, 0⟩] ∧ t.wlen = 0 ∧
        t.maxlen = s.maxlen ∧ t.rom = s.rom ∧ t.inbox = q ∧ t.emitted = s.emitted ++ [⟨.invalidWindow, 0⟩])

/-- The host's small moves. `CFG.MAXLEN` is written in `Idle` with any value from 1 on, and with no other (R26, U5). A ROM read is answered
in any phase and disturbs nothing (R129). In a running pass a write and a START have no place (R18, R26): the step is the one the block
makes with no move pending, and the moves stay pending; a `wait` lets the block make that step in any phase and is used up (that moves
wait, and the move `wait`, are the model's choice, log 5). -/
def Obligations.HostMovesTakeEffect : Prop :=
  (∀ (s : State) (v : Nat) (q : List HostMove), s.inbox = .writeMaxlen v :: q → s.phase = .idle →
    (1 ≤ v → step s = .next { s with inbox := q, maxlen := v }) ∧ (v = 0 → step s = .refused .maxlenZero)) ∧
  (∀ (s : State) (k : Fin 7) (q : List HostMove), s.inbox = .romRead k :: q →
    step s = .next { s with inbox := q, ret := .bytes (romFrameBytes (romFrame s.rom k)) }) ∧
  (∀ (s : State) (m : HostMove) (q : List HostMove), s.inbox = m :: q → s.phase = .scanning →
    ((∃ v, m = .writeMaxlen v) ∨ ∃ w, m = .start w) →
    ∃ t, step { s with inbox := [] } = .next t ∧ step s = .next { t with inbox := s.inbox } ∧ t.maxlen = s.maxlen) ∧
  (∀ (s : State) (q : List HostMove), s.inbox = .wait :: q →
    ∃ t, step { s with inbox := [] } = .next t ∧ step s = .next { t with inbox := q })

/-- A power-on reset at any time abandons the pass (R155): `Idle`, `CFG.MAXLEN = 82`, R empty, the ROM its contents; what was handed
over before stays handed over. -/
def Obligations.ResetAbandonsThePass : Prop :=
  ∀ (s : State) (q : List HostMove), s.inbox = .reset :: q →
    ∃ t, step s = .next t ∧ t.phase = .idle ∧ t.maxlen = 82 ∧ t.results = [] ∧ t.rom = romContents ∧
      t.emitted = s.emitted ∧ t.inbox = q

/-! ### The scanner operations -/

/-- FLUSH (R102): a pending run is reported and cleared; without one nothing happens. That it does so at any byte, not only before a
candidate and at the window's end, is the model's choice (log 28). -/
def Obligations.FlushReportsThePendingRun : Prop :=
  ∀ s : State, s.phase = .scanning →
    (0 < s.skip → exec .flush s = .next
      { s with
        results := s.results ++ [⟨.unrecognizedBytes, s.skip⟩]
        emitted := s.emitted ++ [⟨.unrecognizedBytes, s.skip⟩]
        skip := 0 }) ∧
    (s.skip = 0 → exec .flush s = .next s)

/-- STEP (R101) by its three branches: a candidate is flushed and handed to its span rule, any other byte is counted. Each branch
completes. -/
def Obligations.StepDispatchesOnTheByte : Prop :=
  ∀ (s : State) (b : Byte), s.phase = .scanning → windowByte s s.off = some b →
    ∃ f, exec .flush s = .next f ∧
      (b = 0x24#8 → ∃ t, exec .step s = .next t ∧ exec .nmeaSpan f = .next t) ∧
      (b = 0xB5#8 → windowByte s (s.off + 1) = some 0x62#8 → ∃ t, exec .step s = .next t ∧ exec .ubxSpan f = .next t) ∧
      (b ≠ 0x24#8 → (b = 0xB5#8 → windowByte s (s.off + 1) ≠ some 0x62#8) →
        exec .step s = .next { s with skip := s.skip + 1, off := s.off + 1 })

/-- NMEA_SPAN (R103): the first `\n` among the offsets from `s + 1` up to but not including `min(N, s + MAXLEN)` ends the span, which
is dispatched with `j` at it; without one the candidate is incomplete if the window ends within the bound, else over-long, and `j` is left
as it was, which is the model's choice (log 18). Each case completes. -/
def Obligations.NmeaSpanFindsTheFirstTerminator : Prop :=
  ∀ s : State, s.phase = .scanning → windowByte s s.off = some 0x24#8 →
    (∀ k, s.off + 1 ≤ k → k < min s.wlen (s.off + s.maxlen) → windowByte s k = some 0x0A#8 →
      (∀ m, s.off + 1 ≤ m → m < k → windowByte s m ≠ some 0x0A#8) →
      ∃ t, exec .nmeaSpan s = .next t ∧ exec .nmeaDispatch { s with j := k } = .next t) ∧
    ((∀ m, s.off + 1 ≤ m → m < min s.wlen (s.off + s.maxlen) → windowByte s m ≠ some 0x0A#8) →
      (s.wlen ≤ s.off + s.maxlen → ∃ t, exec .nmeaSpan s = .next t ∧ exec .nmeaIncomplete s = .next t) ∧
      (s.off + s.maxlen < s.wlen → ∃ t, exec .nmeaSpan s = .next t ∧ exec .nmeaOverlong s = .next t))

/-- NMEA_INCOMPLETE and UBX_INCOMPLETE (R104, R108): `pm` names the protocol, the rest of the window is accounted for by one
`IncompleteAtBoundary` of that protocol, and the pass is over. That they do so at any byte, not only where R103 and R107 call them, is the
model's choice (log 28). -/
def Obligations.IncompleteItemsEndThePass : Prop :=
  ∀ (s : State) (i : Instr) (p : Proto), s.phase = .scanning → s.off < s.wlen →
    (i = .nmeaIncomplete ∧ p = .nmea ∨ i = .ubxIncomplete ∧ p = .ubx) →
    ∃ t, exec i s = .next t ∧
      t = { s with
            pm := some p
            results := s.results ++ [⟨.incompleteAtBoundary p, s.wlen - s.off⟩]
            emitted := s.emitted ++ [⟨.incompleteAtBoundary p, s.wlen - s.off⟩]
            off := s.wlen } ∧
      exec .scanEnd t = .next t.finishPass ∧ t.finishPass.phase = .idle

/-- NMEA_OVERLONG and UBX_REJECT (R105, R110): the `$` alone, or the two sync bytes, are accounted for by the failure's result, and
scanning resumes behind them. That they do so at any byte, not only where R103 and R107 call them, is the model's choice (log 28). -/
def Obligations.RejectedCandidatesResumeBehindTheirStart : Prop :=
  ∀ s : State,
    (passWith 1 s → exec .nmeaOverlong s = .next (after .malformedSentence 1 s)) ∧
    (passWith 2 s →
      exec (.ubxReject .truncatedFrame) s = .next (after .truncatedFrame 2 s) ∧
      exec (.ubxReject .checksumMismatch) s = .next (after (.checksumMismatch .ubx) 2 s))

/-- NMEA_DISPATCH (R106): the outcome of NMEA_DECODE on `W[off .. j+1)` becomes one result for the whole span, whatever it is; the
scratch registers are those the decoder writes (R71, R72). That any bytes from `off` to `j` are dispatched, not only a span R103 has found,
is the model's choice (log 28). -/
def Obligations.NmeaDispatchConsumesTheSpan : Prop :=
  ∀ s : State, s.phase = .scanning → s.off < s.j → s.j < s.wlen →
    ∃ d o, exec (.nmeaDecode (windowSlice s s.off (s.j + 1))) s = .next d ∧ d.ret = .sentence o ∧
      exec .nmeaDispatch s = .next { after (nmeaKind o) (s.j + 1 - s.off) s with x := d.x, i := d.i, e := d.e }

/-- UBX_SPAN (R107): incomplete if a header byte lies past the window's end; else the decoder's outcome on `W[off..N)` is accepted
or rejected, with the scratch registers the decoder writes. Each case completes. -/
def Obligations.UbxSpanChecksTheHeaderFirst : Prop :=
  ∀ s : State, s.phase = .scanning → windowByte s s.off = some 0xB5#8 → windowByte s (s.off + 1) = some 0x62#8 →
    (s.wlen < s.off + 6 → ∃ t, exec .ubxSpan s = .next t ∧ exec .ubxIncomplete s = .next t) ∧
    (s.off + 6 ≤ s.wlen → ∃ d o t, exec (.ubxDecode (fetchBytes s)) s = .next d ∧ d.ret = .frame o ∧ exec .ubxSpan s = .next t ∧
      (∀ m, o = .accepted m → exec (.ubxAccept m) { s with len := d.len, ckA := d.ckA, ckB := d.ckB } = .next t) ∧
      (∀ f, o = .rejected f → exec (.ubxReject f) { s with len := d.len, ckA := d.ckA, ckB := d.ckB } = .next t))

/-- UBX_ACCEPT (R109): the message's result for `8 + len` bytes, the cursor behind the frame. That it takes any message at any byte is the
model's choice (log 28). -/
def Obligations.UbxAcceptConsumesTheFrame : Prop :=
  ∀ (s : State) (a b cls id : Byte) (P : Bytes),
    (passWith 10 s → exec (.ubxAccept (.ack a b)) s = .next (after (.ack a b) 10 s)) ∧
    (passWith 10 s → exec (.ubxAccept (.nak a b)) s = .next (after (.nak a b) 10 s)) ∧
    (P.length ≤ 65535 → passWith (8 + P.length) s →
      exec (.ubxAccept (.frame cls id P)) s = .next (after (.ubxFrame cls id (BitVec.ofNat 16 P.length) P) (8 + P.length) s))

/-- SCAN_END (R111): at `off = N` a pending run is flushed, the block is `Idle`, R is kept; the window and everything outside the
ScanCursor are as before. What the discarded ScanCursor's registers hold is the model's (log 2), and not stated here. -/
def Obligations.ScanEndReturnsToIdle : Prop :=
  ∀ s : State, s.phase = .scanning → s.wlen ≤ s.off →
    ∃ f t, exec .flush s = .next f ∧ exec .scanEnd s = .next t ∧ t.phase = .idle ∧
      t.results = f.results ∧ t.emitted = f.emitted ∧
      t.mem = s.mem ∧ t.wlen = s.wlen ∧ t.maxlen = s.maxlen ∧ t.rom = s.rom ∧ t.inbox = s.inbox ∧ t.ret = s.ret

/-- Operations need their phase (R11, R18), the byte they start at (R103, R106, R107), the window's end (R111) and a payload the length
field can declare (R17, R120): elsewhere they have no transition. The refusals are the model's form of it (log 13). -/
def Obligations.OperationsNeedTheirPrecondition : Prop :=
  (∀ (i : Instr) (s : State), isPassOperation i = true → s.phase = .idle → exec i s = .refused .noPass) ∧
  (∀ (w : Option Bytes) (s : State), s.phase = .scanning → exec (.scan w) s = .refused .passRunning) ∧
  (∀ s : State, s.phase = .scanning →
    (s.off < s.wlen → windowByte s s.off ≠ some 0x24#8 → exec .nmeaSpan s = .refused .notSentenceStart) ∧
    (s.off < s.wlen → ¬(windowByte s s.off = some 0xB5#8 ∧ windowByte s (s.off + 1) = some 0x62#8) →
      exec .ubxSpan s = .refused .notSyncWord) ∧
    (s.j ≤ s.off → exec .nmeaDispatch s = .refused .noSpan) ∧
    (s.off < s.wlen → exec .scanEnd s = .refused .notAtEnd)) ∧
  (∀ (s : State) (cls id : Byte) (P : Bytes), 65535 < P.length →
    exec (.build cls id P) s = .refused .payloadTooLong ∧
    (s.phase = .scanning → exec (.ubxFrame cls id P) s = .refused .payloadTooLong ∧
      exec (.ubxAccept (.frame cls id P)) s = .refused .payloadTooLong))

/-- No byte lies at an offset from N on (R31): at the window's end no operation finds a byte, and no item can account for bytes past it.
The fault is the model's form of it (logs 4, 26); a step of a pass never meets it. -/
def Obligations.NothingStandsPastTheWindow : Prop :=
  ∀ s : State, s.phase = .scanning →
    (∀ (i : Instr) (b : Byte), i ∈ [.step, .nmeaSpan, .ubxSpan, .nmeaIncomplete, .ubxIncomplete, .skip b] → s.wlen ≤ s.off →
      exec i s = .fault (.noSuchOffset s.off)) ∧
    (∀ (i : Instr) (c : Nat), reportedLength i = some c → s.wlen < s.off + c → exec i s = .fault (.noSuchOffset (s.off + c - 1))) ∧
    (s.off < s.j → s.wlen ≤ s.j → exec .nmeaDispatch s = .fault (.noSuchOffset s.j))

/-! ### The wire items

An item is given by its operands; that `exec` of it does not compare them with the window's bytes is the model's choice (log 26). -/

/-- SKIP (R15, R101): a byte that starts no item is counted and passed over; nothing is emitted. -/
def Obligations.SkipCountsTheByte : Prop :=
  ∀ (s : State) (b : Byte), passWith 1 s → exec (.skip b) s = .next { s with skip := s.skip + 1, off := s.off + 1 }

/-- NMEA.RMC (R82): with fields 1 to 6 in their formats the sentence gives one `PositionFix` without satellites and HDOP; a void
status still decodes. -/
def Obligations.RmcGivesAPositionFix : Prop :=
  ∀ (s : State) (t : SentenceText) (utc : Utc) (valid : Bool) (a o : Rat) (sa so : Int),
    passWith (sentenceSpan t).length s →
    fieldValue t.fields 1 parseTime = some utc → fieldValue t.fields 2 parseStatus = some valid →
    fieldValue t.fields 3 (parseAngle · 2) = some a → fieldValue t.fields 4 parseHemiNs = some sa →
    fieldValue t.fields 5 (parseAngle · 3) = some o → fieldValue t.fields 6 parseHemiEw = some so →
    exec (.nmeaRmc t) s = .next (after
      (.positionFix { lat := sa * a, lon := so * o, utc := utc, valid := valid, sats := none, hdop := none })
      (sentenceSpan t).length s)

/-- NMEA.RMC (R81, R82): the lowest field that is missing or not in its format is named, and the sentence is consumed whole. -/
def Obligations.RmcNamesTheLowestBadField : Prop :=
  ∀ (s : State) (t : SentenceText) (n : Nat), passWith (sentenceSpan t).length s →
    rmcFieldOk t.fields n = false → (∀ m, m < n → rmcFieldOk t.fields m = true) →
    1 ≤ n ∧ n ≤ 6 ∧ exec (.nmeaRmc t) s = .next (after (.fieldFormatError n) (sentenceSpan t).length s)

/-- NMEA.GGA (R83): with fields 1 to 8 in their formats the sentence gives one `PositionFix`, valid where the quality is not 0. -/
def Obligations.GgaGivesAPositionFix : Prop :=
  ∀ (s : State) (t : SentenceText) (utc : Utc) (a o : Rat) (sa so : Int) (q sats : Nat) (d : DecParts),
    passWith (sentenceSpan t).length s →
    fieldValue t.fields 1 parseTime = some utc →
    fieldValue t.fields 2 (parseAngle · 2) = some a → fieldValue t.fields 3 parseHemiNs = some sa →
    fieldValue t.fields 4 (parseAngle · 3) = some o → fieldValue t.fields 5 parseHemiEw = some so →
    fieldValue t.fields 6 parseUint = some q → fieldValue t.fields 7 parseUint = some sats →
    fieldValue t.fields 8 parseDec = some d →
    exec (.nmeaGga t) s = .next (after
      (.positionFix
        { lat := sa * a, lon := so * o, utc := utc, valid := decide (q ≠ 0), sats := some sats, hdop := some d.v })
      (sentenceSpan t).length s)

/-- NMEA.GGA (R81, R83): the lowest field that is missing or not in its format is named, and the sentence is consumed whole. -/
def Obligations.GgaNamesTheLowestBadField : Prop :=
  ∀ (s : State) (t : SentenceText) (n : Nat), passWith (sentenceSpan t).length s →
    ggaFieldOk t.fields n = false → (∀ m, m < n → ggaFieldOk t.fields m = true) →
    1 ≤ n ∧ n ≤ 8 ∧ exec (.nmeaGga t) s = .next (after (.fieldFormatError n) (sentenceSpan t).length s)

/-- NMEA.OTHER (R70, R75): malformed, of wrong checksum, or of an unsupported type by its address field, in this order; consumed
whole. -/
def Obligations.OtherSentencesAreReportedWhole : Prop :=
  ∀ (s : State) (S : Bytes), passWith S.length s →
    (nmeaFrame S = none → exec (.nmeaOther S) s = .next (after .malformedSentence S.length s)) ∧
    (∀ i cks, nmeaFrame S = some (i, cks) → nmeaXor (slice S 1 i) ≠ cks →
      exec (.nmeaOther S) s = .next (after (.checksumMismatch .nmea) S.length s)) ∧
    (∀ i cks addr fs, nmeaFrame S = some (i, cks) → nmeaXor (slice S 1 i) = cks → splitFields (slice S 1 i) = addr :: fs →
      exec (.nmeaOther S) s = .next (after (.unsupportedSentenceType addr) S.length s))

/-- UBX.ACK, UBX.NAK and UBX.FRAME (R91 to R93): the acknowledged class and id for 10 bytes; class, id, length and payload by value for
`8 + len` bytes. -/
def Obligations.AcceptedFramesAreReportedWhole : Prop :=
  ∀ (s : State) (ackClass ackId cls id : Byte) (P : Bytes),
    (passWith 10 s →
      exec (.ubxAck ackClass ackId) s = .next (after (.ack ackClass ackId) 10 s) ∧
      exec (.ubxNak ackClass ackId) s = .next (after (.nak ackClass ackId) 10 s)) ∧
    (P.length ≤ 65535 → passWith (8 + P.length) s →
      exec (.ubxFrame cls id P) s = .next (after (.ubxFrame cls id (BitVec.ofNat 16 P.length) P) (8 + P.length) s))

/-! ### The primitives

That the operations of this section and of the next ones leave their scratch registers written outside a pass too is the model's choice
(log 29), and so is that an accumulator keeps its sum after the call (log 1). -/

/-- NMEA_XOR (R62): the accumulator and the value are the XOR of the bytes, 0 for the empty body, whatever their order. That `x` is
left so after the call, in any phase, is the model's choice (logs 1, 29). -/
def Obligations.XorIsOrderFree : Prop :=
  (∀ (s : State) (B : Bytes), exec (.nmeaXor B) s = .next { s with x := nmeaXor B, ret := .byte (nmeaXor B) }) ∧
  nmeaXor [] = 0x00#8 ∧ (∀ (b : Byte) (B : Bytes), nmeaXor (b :: B) = b ^^^ nmeaXor B) ∧
  (∀ B C : Bytes, B.Perm C → nmeaXor B = nmeaXor C)

/-- HEX2ENC (R63): two digits, high nibble first, upper case; HEX2DEC reads them back (R64). -/
def Obligations.HexDigitsOfAByte : Prop :=
  ∀ (s : State) (v : Byte), ∃ hi lo : Byte,
    exec (.hex2Enc v) s = .next { s with ret := .digits hi lo } ∧
    exec (.hex2Dec hi lo) s = .next { s with ret := .byte v } ∧
    hi.toNat = (if v.toNat / 16 ≤ 9 then 0x30 + v.toNat / 16 else 0x41 + (v.toNat / 16 - 10)) ∧
    lo.toNat = (if v.toNat % 16 ≤ 9 then 0x30 + v.toNat % 16 else 0x41 + (v.toNat % 16 - 10))

/-- HEX2DEC (R64): the value of two hexadecimal digits of either case, high digit first; `invalid` if either byte is no digit. -/
def Obligations.HexValueOfTwoDigits : Prop :=
  ∀ (s : State) (c1 c2 : Byte),
    (∀ h l : Byte, hexValue c1 = some h → hexValue c2 = some l → exec (.hex2Dec c1 c2) s = .next { s with ret := .byte (16#8 * h + l) }) ∧
    ((hexValue c1 = none ∨ hexValue c2 = none) → exec (.hex2Dec c1 c2) s = .next { s with ret := .invalid }) ∧
    (∀ c h : Byte, hexValue c = some h ↔
      (0x30 ≤ c.toNat ∧ c.toNat ≤ 0x39 ∧ h.toNat = c.toNat - 0x30) ∨
      (0x41 ≤ c.toNat ∧ c.toNat ≤ 0x46 ∧ h.toNat = c.toNat - 0x41 + 10) ∨
      (0x61 ≤ c.toNat ∧ c.toNat ≤ 0x66 ∧ h.toNat = c.toNat - 0x61 + 10))

/-- UBX_CK (R65): the accumulators and the value are the Fletcher sums, in the rule's closed form modulo 256. UBX_CK_VALID (R66): true
exactly when both bytes match. That `ckA` and `ckB` are left so after the call, in any phase, is the model's choice (logs 1, 29). -/
def Obligations.FletcherSumsInClosedForm : Prop :=
  ∀ (s : State) (D : Bytes) (a b : Byte),
    exec (.ubxCk D) s = .next { s with ckA := (ubxCk D).1, ckB := (ubxCk D).2, ret := .sums (ubxCk D).1 (ubxCk D).2 } ∧
    (ubxCk D).1.toNat = (D.map BitVec.toNat).sum % 256 ∧
    (ubxCk D).2.toNat = ((List.range D.length).map fun k => (D.length - k) * (D.getD k 0x00#8).toNat).sum % 256 ∧
    exec (.ubxCkValid D a b) s =
      .next { s with ckA := (ubxCk D).1, ckB := (ubxCk D).2, ret := .truth (decide ((ubxCk D).1 = a ∧ (ubxCk D).2 = b)) }

/-- Changing one payload byte of a built frame always gives `ChecksumMismatch` (R68 (a)). -/
def Obligations.OneCorruptPayloadByteIsDetected : Prop :=
  ∀ (cls id : Byte) (P : Bytes) (k : Nat) (v : Byte), P.length ≤ 65535 → k < P.length → P[k]? ≠ some v →
    ubxDecode ((build cls id P).set (6 + k) v) = .rejected .checksumMismatch

/-! ### The sentence decoder -/

/-- NMEA_DECODE (R70): the checks in the rule's order, the first failure deciding; the scratch registers as R71 and R72 write them
(their values after a failed check are the model's reading, log 18; that they are left written outside a pass is its choice, log 29). -/
def Obligations.DecodeChecksInOrder : Prop :=
  ∀ (s : State) (S : Bytes), ∃ o t, exec (.nmeaDecode S) s = .next t ∧ t.ret = .sentence o ∧
    t = { s with x := t.x, i := t.i, e := t.e, ret := t.ret } ∧
    (nmeaFrame S = none → o = .malformedSentence ∧ t.x = s.x) ∧
    (∀ i cks, nmeaFrame S = some (i, cks) → t.i = i ∧ t.x = nmeaXor (slice S 1 i) ∧
      (nmeaXor (slice S 1 i) ≠ cks → o = .checksumMismatch) ∧
      (∀ addr fs, nmeaXor (slice S 1 i) = cks → splitFields (slice S 1 i) = addr :: fs →
        (addr.length = 5 → addr.drop 2 = [0x52#8, 0x4D#8, 0x43#8] → o = fixOutcome (rmcFix (addr :: fs))) ∧
        (addr.length = 5 → addr.drop 2 = [0x47#8, 0x47#8, 0x41#8] → o = fixOutcome (ggaFix (addr :: fs))) ∧
        (addr.length ≠ 5 ∨ (addr.drop 2 ≠ [0x52#8, 0x4D#8, 0x43#8] ∧ addr.drop 2 ≠ [0x47#8, 0x47#8, 0x41#8]) →
          o = .unsupportedSentenceType addr)))

/-- NMEA_FRAME (R46, R71): a span passes exactly when it is `$`, a body without `*`, `*`, two hexadecimal digits and `\n` or
`\r\n`; the index is the star's and the checksum the digits'. That `i` and `e` are left written outside a pass too is the model's choice
(log 29). -/
def Obligations.FrameIsTheWrittenForm : Prop :=
  ∀ (s : State) (S : Bytes) (i : Nat) (cks : Byte),
    (∃ t, exec (.nmeaFrame S) s = .next t ∧ t = { s with i := t.i, e := t.e, ret := t.ret } ∧
      (t.ret = .framed i cks ↔
        ∃ (body tail : Bytes) (h1 h2 : Byte), S = 0x24#8 :: (body ++ 0x2A#8 :: h1 :: h2 :: tail) ∧
          0x2A#8 ∉ body ∧ hex2Dec h1 h2 = some cks ∧ i = 1 + body.length ∧ (tail = [0x0A#8] ∨ tail = [0x0D#8, 0x0A#8])) ∧
      (t.ret = .framed i cks → t.i = i ∧ t.e = i + 3) ∧
      ((∀ i' cks', t.ret ≠ .framed i' cks') → t.ret = .sentence .malformedSentence))

/-- NMEA_CKCHECK (R72): the XOR of the body against the parsed checksum. That `x` is left at that XOR, in any phase, is the model's choice
(logs 1, 29). -/
def Obligations.ChecksumIsComparedWithTheBody : Prop :=
  ∀ (s : State) (S : Bytes) (i : Nat) (cks : Byte),
    exec (.nmeaCkcheck S i cks) s =
      .next { s with x := nmeaXor (slice S 1 i), ret := if nmeaXor (slice S 1 i) = cks then .ckOk else .sentence .checksumMismatch }

/-- NMEA_TOKENIZE (R48, R73): the body `S[1..i)` is split at its commas and nowhere else: one field more than commas, no field with a
comma, and joining gives the body back, so that the XOR of the joined fields is the checksum of the body (R86). -/
def Obligations.TokensAreTheBodySplitAtCommas : Prop :=
  ∀ (s : State) (S : Bytes) (i : Nat), ∃ f : List Bytes,
    exec (.nmeaTokenize S i) s = .next { s with ret := .fields f } ∧
    f.length = (slice S 1 i).count 0x2C#8 + 1 ∧ (∀ t ∈ f, 0x2C#8 ∉ t) ∧ joinFields f = slice S 1 i ∧
    (∀ cks, nmeaFrame S = some (i, cks) → nmeaXor (slice S 1 i) = cks → nmeaXor (joinFields f) = cks)

/-- NMEA_ADDR (R74): a field 0 of exactly 5 bytes is talker and type; any other is unsupported. -/
def Obligations.AddressFieldIsTalkerAndType : Prop :=
  ∀ (s : State) (f0 talker ty : Bytes) (others : List Bytes),
    (talker.length = 2 → ty.length = 3 → f0 = talker ++ ty →
      exec (.nmeaAddr f0 others) s = .next { s with ret := .address talker ty }) ∧
    (f0.length ≠ 5 → exec (.nmeaAddr f0 others) s = .next { s with ret := .sentence (.unsupportedSentenceType f0) })

/-- A `PositionFix` comes only from an `NmeaSentence`, whose checksum byte is the XOR of its body and whose type is RMC or GGA (R20, R21,
R85); satellites and HDOP are there exactly for GGA. -/
def Obligations.FixOnlyFromAValidSentence : Prop :=
  ∀ (S : Bytes) (p : PositionFix), nmeaDecode S = .positionFix p →
    ∃ r i, nmeaSentence? S = some r ∧ nmeaFrame S = some (i, r.cks) ∧ r.cks = nmeaXor (slice S 1 i) ∧
      r.talker.length = 2 ∧ r.f[0]? = some (r.talker ++ r.ty) ∧ joinFields r.f = slice S 1 i ∧
      ((r.ty = [0x52#8, 0x4D#8, 0x43#8] ∧ p.sats = none ∧ p.hdop = none) ∨
        (r.ty = [0x47#8, 0x47#8, 0x41#8] ∧ p.sats.isSome = true ∧ p.hdop.isSome = true))

/-- PARSE_UINT (R50, R76): one or more digits and nothing else; the value is the decimal number they spell. -/
def Obligations.UintIsTheDecimalNumber : Prop :=
  ∀ (s : State) (t : Bytes),
    (t ≠ [] → (∀ b ∈ t, 0x30 ≤ b.toNat ∧ b.toNat ≤ 0x39) →
      exec (.parseUint t) s = .next { s with ret := .natural (Nat.ofDigits 10 (t.reverse.map fun b => b.toNat - 0x30)) }) ∧
    ((t = [] ∨ ∃ b ∈ t, b.toNat < 0x30 ∨ 0x39 < b.toNat) → exec (.parseUint t) s = .next { s with ret := .fail })

/-- PARSE_DEC (R50, R77): digits, optionally a point and more digits; an exact rational. Any other byte string fails. -/
def Obligations.DecIsTheExactRational : Prop :=
  ∀ (s : State) (t : Bytes),
    (∀ ip, ip ≠ [] → ip.all isDigit = true → t = ip →
      exec (.parseDec t) s = .next { s with ret := .decimal ⟨ip, [], decimal ip⟩ }) ∧
    (∀ ip fp, ip ≠ [] → ip.all isDigit = true → fp.all isDigit = true → t = ip ++ 0x2E#8 :: fp →
      exec (.parseDec t) s = .next { s with ret := .decimal ⟨ip, fp, decimal ip + decimal fp / 10 ^ fp.length⟩ }) ∧
    ((∀ ip fp, ip ≠ [] → ip.all isDigit = true → fp.all isDigit = true → t ≠ ip ∧ t ≠ ip ++ 0x2E#8 :: fp) →
      exec (.parseDec t) s = .next { s with ret := .fail })

/-- PARSE_ANGLE (R51, R78): `nd` digits of degrees, two of minutes and the fraction, minutes divided by 60; a `DEC` with another
number of integer digits, or no `DEC`, fails. -/
def Obligations.AngleIsDegreesPlusMinutes : Prop :=
  ∀ (s : State) (nd : Nat) (t : Bytes),
    (∀ dd mm fp, dd.length = nd → mm.length = 2 → (dd ++ mm ++ fp).all isDigit = true →
      (t = dd ++ mm ++ 0x2E#8 :: fp ∨ (t = dd ++ mm ∧ fp = [])) →
      exec (.parseAngle t nd) s =
        .next { s with ret := .degrees (decimal dd + (decimal mm + decimal fp / 10 ^ fp.length) / 60) }) ∧
    ((∀ d, parseDec t = some d → d.ip.length ≠ nd + 2) → exec (.parseAngle t nd) s = .next { s with ret := .fail })

/-- PARSE_TIME (R51, R79): `hhmmss` and the fraction of seconds, no range check; another number of integer digits, or no `DEC`,
fails. The layout `hhmmss` is PRESUMED: R79 marks it as general knowledge (G2, log 17). -/
def Obligations.TimeIsHoursMinutesSeconds : Prop :=
  ∀ (s : State) (t : Bytes),
    (∀ h m ss fp, h.length = 2 → m.length = 2 → ss.length = 2 → (h ++ m ++ ss ++ fp).all isDigit = true →
      (t = h ++ m ++ ss ++ 0x2E#8 :: fp ∨ (t = h ++ m ++ ss ∧ fp = [])) →
      exec (.parseTime t) s =
        .next { s with ret := .time ⟨decimal h, decimal m, decimal ss + decimal fp / 10 ^ fp.length⟩ }) ∧
    ((∀ d, parseDec t = some d → d.ip.length ≠ 6) → exec (.parseTime t) s = .next { s with ret := .fail })

/-- The letter fields (R80): `N` and `E` are +1, `S` and `W` −1, `A` true, `V` false; any other byte string fails. Which hemisphere is
negative is PRESUMED: R80 marks it as general knowledge (G3, log 17). -/
def Obligations.LetterFieldsAreExact : Prop :=
  ∀ (s : State) (t : Bytes),
    exec (.parseHemiNs [0x4E#8]) s = .next { s with ret := .sign 1 } ∧
    exec (.parseHemiNs [0x53#8]) s = .next { s with ret := .sign (-1) } ∧
    (t ≠ [0x4E#8] → t ≠ [0x53#8] → exec (.parseHemiNs t) s = .next { s with ret := .fail }) ∧
    exec (.parseHemiEw [0x45#8]) s = .next { s with ret := .sign 1 } ∧
    exec (.parseHemiEw [0x57#8]) s = .next { s with ret := .sign (-1) } ∧
    (t ≠ [0x45#8] → t ≠ [0x57#8] → exec (.parseHemiEw t) s = .next { s with ret := .fail }) ∧
    exec (.parseStatus [0x41#8]) s = .next { s with ret := .truth true } ∧
    exec (.parseStatus [0x56#8]) s = .next { s with ret := .truth false } ∧
    (t ≠ [0x41#8] → t ≠ [0x56#8] → exec (.parseStatus t) s = .next { s with ret := .fail })

/-- The primitives, decoders, parsers and frame reads leave the cursor, the phase, the pending run and the result stream alone (R62 to
R66, R70, R129). -/
def Obligations.PureOperationsLeaveThePassAlone : Prop :=
  ∀ (i : Instr) (s t : State), isPureOperation i = true → exec i s = .next t →
    t.phase = s.phase ∧ t.off = s.off ∧ t.pm = s.pm ∧ t.skip = s.skip ∧ t.j = s.j ∧
      t.results = s.results ∧ t.emitted = s.emitted

/-! ### The frame decoder -/

/-- UBX_DECODE (R90, R95): a slice that starts with the sync word, or one of fewer than 8 bytes, has an outcome; a longer slice
without the sync word has none. Fewer than 8 bytes, or fewer than the frame declares, are `TruncatedFrame`. A frame that is there whole
leaves the sums of what its checksum covers in `ckA` and `ckB`; it is `ChecksumMismatch` exactly where either differs from its trailing
byte (R133), and else gives its class, id and payload. That `len`, `ckA` and `ckB` are left written, in any phase, is the model's choice
(logs 1, 29). -/
def Obligations.UbxDecodeNeedsTheSyncWord : Prop :=
  ∀ (s : State) (S : Bytes),
    (S.length < 8 → exec (.ubxDecode S) s = .next { s with ret := .frame (.rejected .truncatedFrame) }) ∧
    (8 ≤ S.length → startsSync S = true →
      ∃ o t, exec (.ubxDecode S) s = .next t ∧ t.ret = .frame o ∧
        t = { s with len := t.len, ckA := t.ckA, ckB := t.ckB, ret := t.ret } ∧
        t.len.toNat = (S.getD 4 0x00#8).toNat + 256 * (S.getD 5 0x00#8).toNat ∧
        (S.length < 8 + t.len.toNat → o = .rejected .truncatedFrame) ∧
        (8 + t.len.toNat ≤ S.length →
          ubxCk (slice S 2 (6 + t.len.toNat)) = (t.ckA, t.ckB) ∧
          (o = .rejected .checksumMismatch ↔
            S[6 + t.len.toNat]? ≠ some t.ckA ∨ S[7 + t.len.toNat]? ≠ some t.ckB) ∧
          (S[6 + t.len.toNat]? = some t.ckA → S[7 + t.len.toNat]? = some t.ckB →
            ∃ m, o = .accepted m ∧
              messageParts m = (S.getD 2 0x00#8, S.getD 3 0x00#8, slice S 6 (6 + t.len.toNat))))) ∧
    (8 ≤ S.length → startsSync S = false → exec (.ubxDecode S) s = .refused .notSyncWord)

/-- A slice is accepted exactly when the whole frame of a message stands at its front (R54, R55, R90 to R93). -/
def Obligations.AcceptedFramesAreTheWrittenForm : Prop :=
  ∀ (S : Bytes) (m : UbxMessage), startsSync S = true →
    (ubxDecode S = .accepted m ↔ messageWellFormed m = true ∧ ∃ rest, S = messageFrame m ++ rest)

/-! ### The command builder -/

/-- BUILD (R120): sync word, class, id, the two length bytes, payload, checksum pair; UBX_DECODE accepts the frame with the same
class, id and payload. That `ckA` and `ckB` are left at the pair, in any phase, is the model's choice (logs 1, 29). -/
def Obligations.BuiltFrameDecodesToItsTriple : Prop :=
  ∀ (s : State) (cls id : Byte) (P : Bytes), P.length ≤ 65535 →
    ∃ (lenL lenH a b : Byte), lenL.toNat = P.length % 256 ∧ lenH.toNat = P.length / 256 ∧
      ubxCk ([cls, id, lenL, lenH] ++ P) = (a, b) ∧
      exec (.build cls id P) s = .next
        { s with ckA := a, ckB := b, ret := .bytes ([0xB5#8, 0x62#8, cls, id, lenL, lenH] ++ P ++ [a, b]) } ∧
      ∃ m, ubxDecode ([0xB5#8, 0x62#8, cls, id, lenL, lenH] ++ P ++ [a, b]) = .accepted m ∧ messageParts m = (cls, id, P)

/-- The four DISABLE frames, by name (R121 to R124), and the three open ones as `BUILD` of their triples (R125 to R127, log 14). The bytes
of the four are PRESUMED: their rules mark the payloads as general knowledge (G5, log 16). -/
def Obligations.CommandFramesByName : Prop :=
  ∀ s : State, s.rom = romContents →
    exec .cmdDisableGll s = .next
      { s with ret := .bytes ([0xB5#8, 0x62#8, 0x06#8, 0x01#8, 0x03#8, 0x00#8, 0xF0#8, 0x01#8, 0x00#8, 0xFB#8, 0x11#8]) } ∧
    exec .cmdDisableVtg s = .next
      { s with ret := .bytes ([0xB5#8, 0x62#8, 0x06#8, 0x01#8, 0x03#8, 0x00#8, 0xF0#8, 0x05#8, 0x00#8, 0xFF#8, 0x19#8]) } ∧
    exec .cmdDisableGsv s = .next
      { s with ret := .bytes ([0xB5#8, 0x62#8, 0x06#8, 0x01#8, 0x03#8, 0x00#8, 0xF0#8, 0x03#8, 0x00#8, 0xFD#8, 0x15#8]) } ∧
    exec .cmdDisableGsa s = .next
      { s with ret := .bytes ([0xB5#8, 0x62#8, 0x06#8, 0x01#8, 0x03#8, 0x00#8, 0xF0#8, 0x02#8, 0x00#8, 0xFC#8, 0x13#8]) } ∧
    exec .cmdSetNavmode s = .next
      { s with ret := .bytes (build (Config.openCls .navMode) (Config.openId .navMode) (Config.openPayload .navMode)) } ∧
    exec .cmdSetLed s = .next
      { s with ret := .bytes (build (Config.openCls .led) (Config.openId .led) (Config.openPayload .led)) } ∧
    exec .cmdPollStop s = .next
      { s with ret := .bytes (build (Config.openCls .pollStop) (Config.openId .pollStop) (Config.openPayload .pollStop)) }

/-- ROM_READ (R129): `ROM[k]` is the frame of the name with index `k`, in any phase, and nothing else changes. -/
def Obligations.RomReadFollowsTheIndexOrder : Prop :=
  ∀ s : State,
    exec (.romRead 0) s = exec .cmdDisableGll s ∧ exec (.romRead 1) s = exec .cmdDisableVtg s ∧
    exec (.romRead 2) s = exec .cmdDisableGsv s ∧ exec (.romRead 3) s = exec .cmdDisableGsa s ∧
    exec (.romRead 4) s = exec .cmdSetNavmode s ∧ exec (.romRead 5) s = exec .cmdSetLed s ∧
    exec (.romRead 6) s = exec .cmdPollStop s ∧
    ∀ k, ∃ bytes, exec (.romRead k) s = .next { s with ret := .bytes bytes }

/-- The build-time assertion (R128): every frame of the ROM starts with the sync word, declares its own length and carries its own
checksum, whatever the open parameters are. -/
def Obligations.RomFramesCarryTheirChecksum : Prop :=
  ∀ k : Fin 7, ∃ F n, F = romFrameBytes (romFrame romContents k) ∧ F.length = n ∧ 8 ≤ n ∧
    slice F 0 2 = [0xB5#8, 0x62#8] ∧ (F.getD 4 0x00#8).toNat + 256 * (F.getD 5 0x00#8).toNat = n - 8 ∧
    ubxCk (slice F 2 (n - 2)) = (F.getD (n - 2) 0x00#8, F.getD (n - 1) 0x00#8)

/-! ### The boundary -/

/-- Routing (R38, R84, R115): the fixes go to the position sink, in order and each of their numbers through `FLOAT_ROUND`; every other
result to the diagnostics sink, in order, if it is there. That the seconds are among these numbers is read from D22 (DEDUCED, log 15); that
the sink is handed the record without the count of bytes is the model's choice (log 27). -/
def Obligations.EveryResultIsRoutedOnce : Prop :=
  (∀ (R R' : List Result), positionSink (R ++ R') = positionSink R ++ positionSink R' ∧
    diagnosticsSink (R ++ R') = diagnosticsSink R ++ diagnosticsSink R') ∧
  (∀ (p : PositionFix) (c : Nat),
    positionSink [⟨.positionFix p, c⟩] =
      [{ p with
          lat := Config.floatRound p.lat
          lon := Config.floatRound p.lon
          utc := ⟨p.utc.hh, p.utc.mm, Config.floatRound p.utc.ss⟩
          hdop := p.hdop.map Config.floatRound }] ∧
    diagnosticsSink [⟨.positionFix p, c⟩] = []) ∧
  (∀ r : Result, (∀ p, r.kind ≠ .positionFix p) → positionSink [r] = [] ∧
    diagnosticsSink [r] = if Config.diagSinkPresent then [r] else [])
end

