-- ==== Sys2Proof/Laws/Codec.lean ====
section
/-! SUPPORT. Laws/Codec.lean: what slices, searches, field splitting and the codec primitives do, said once (R6, R48, R62 to R65, R71,
R103). -/

namespace Sys2Proof.Machine

/-! ### Slices and searches -/

theorem slice_getElem? (S : Bytes) (a b k : Nat) : (slice S a b)[k]? = if a + k < b then S[a + k]? else none := by
  simp only [slice, List.getElem?_drop, List.getElem?_take]

theorem slice_length (S : Bytes) (a b : Nat) : (slice S a b).length = min b S.length - a := by
  simp [slice]

theorem slice_of_append (A B C : Bytes) : slice (A ++ (B ++ C)) A.length (A.length + B.length) = B := by
  have h : (A ++ (B ++ C)).take (A.length + B.length) = A ++ B := by
    rw [← List.append_assoc, List.take_append_of_le_length (by simp), List.take_of_length_le (by simp)]
  rw [slice, h, List.drop_left]

/-- `findByte` finds the least index of the byte in the range (R71, R103). -/
theorem findByte_eq_some_iff {c : Byte} {S : Bytes} {a b k : Nat} :
    findByte c S a b = some k ↔
      a ≤ k ∧ k < b ∧ S[k]? = some c ∧ ∀ m, a ≤ m → m < k → S[m]? ≠ some c := by
  unfold findByte
  rw [Option.map_eq_some_iff]
  constructor
  · rintro ⟨i, hi, rfl⟩
    rw [List.findIdx?_eq_some_iff_getElem] at hi
    obtain ⟨hlt, hp, hmin⟩ := hi
    rw [slice_length] at hlt
    have hget : S[a + i]? = some c := by
      have h1 : (slice S a b)[i]? = some c := by
        rw [List.getElem?_eq_getElem (by rw [slice_length]; exact hlt)]; simpa using hp
      rw [slice_getElem?] at h1; split at h1
      · exact h1
      · cases h1
    refine ⟨by omega, by omega, by rwa [Nat.add_comm] at hget, fun m ham hmk hm => ?_⟩
    have hlt' : m - a < i := by omega
    have h2 := hmin (m - a) hlt'
    have h3 : (slice S a b)[m - a]? = some c := by
      rw [slice_getElem?, if_pos (by omega), show a + (m - a) = m by omega]; exact hm
    rw [List.getElem?_eq_getElem (by rw [slice_length]; omega)] at h3
    simp only [Option.some.injEq] at h3
    simp [h3] at h2
  · rintro ⟨hak, hkb, hget, hmin⟩
    have hk : k < S.length := by
      by_contra h; rw [List.getElem?_eq_none (by omega)] at hget; cases hget
    refine ⟨k - a, ?_, by omega⟩
    rw [List.findIdx?_eq_some_iff_getElem]
    refine ⟨by rw [slice_length]; omega, ?_, fun m hm => ?_⟩
    · have h1 : (slice S a b)[k - a]? = some c := by
        rw [slice_getElem?, if_pos (by omega), show a + (k - a) = k by omega]; exact hget
      rw [List.getElem?_eq_getElem (by rw [slice_length]; omega)] at h1
      simpa using h1
    · intro hp
      have h1 : (slice S a b)[m]? = some c := by
        rw [List.getElem?_eq_getElem (by rw [slice_length]; omega)]; simpa using hp
      rw [slice_getElem?, if_pos (by omega)] at h1
      exact hmin (a + m) (by omega) (by omega) h1

theorem findByte_eq_none_iff {c : Byte} {S : Bytes} {a b : Nat} :
    findByte c S a b = none ↔ ∀ m, a ≤ m → m < b → S[m]? ≠ some c := by
  constructor
  · intro h m ham hmb hm
    have hlen : m < S.length := by
      by_contra h'; rw [List.getElem?_eq_none (by omega)] at hm; cases hm
    simp only [findByte, Option.map_eq_none_iff, List.findIdx?_eq_none_iff] at h
    have hmem : c ∈ slice S a b := by
      rw [List.mem_iff_getElem?]
      exact ⟨m - a, by rw [slice_getElem?, if_pos (by omega), show a + (m - a) = m by omega]; exact hm⟩
    simpa using h c hmem
  · intro h
    rcases hf : findByte c S a b with _ | k
    · rfl
    · obtain ⟨h1, h2, h3, -⟩ := findByte_eq_some_iff.mp hf
      exact absurd h3 (h k h1 h2)

/-- A search that stays below `n` sees the first `n` bytes only. -/
theorem findByte_take {c : Byte} {S : Bytes} {a b n : Nat} (h : b ≤ n) :
    findByte c (S.take n) a b = findByte c S a b := by
  simp [findByte, slice, List.take_take, Nat.min_eq_left h]

theorem startsSync_iff {S : Bytes} : startsSync S = true ↔ S[0]? = some sync1 ∧ S[1]? = some sync2 := by
  simp [startsSync]

/-! ### Fields -/

theorem splitFields_ne_nil (B : Bytes) : splitFields B ≠ [] := by
  cases B with
  | nil => simp [splitFields]
  | cons b bs => simp only [splitFields]; split; · simp
                 split <;> simp

/-- Joining the fields of a body gives the body back (R86). -/
theorem joinFields_splitFields (B : Bytes) : joinFields (splitFields B) = B := by
  induction B with
  | nil => rfl
  | cons b bs ih =>
    simp only [splitFields]
    split
    · rename_i hb
      rcases hs : splitFields bs with _ | ⟨f, fs⟩
      · exact absurd hs (splitFields_ne_nil bs)
      · rw [hs] at ih; simp [joinFields, ih, hb]
    · rcases hs : splitFields bs with _ | ⟨f, fs⟩
      · exact absurd hs (splitFields_ne_nil bs)
      · rw [hs] at ih
        cases fs with
        | nil => simpa [joinFields] using ih
        | cons g gs => simpa [joinFields] using ih

theorem splitFields_no_comma (B : Bytes) : ∀ f ∈ splitFields B, chComma ∉ f := by
  induction B with
  | nil => simp [splitFields]
  | cons b bs ih =>
    simp only [splitFields]
    split
    · intro f hf
      rcases List.mem_cons.mp hf with rfl | hf
      · simp
      · exact ih f hf
    · rename_i hb
      rcases hs : splitFields bs with _ | ⟨g, gs⟩
      · exact absurd hs (splitFields_ne_nil bs)
      · rw [hs] at ih
        intro f hf
        rcases List.mem_cons.mp hf with rfl | hf
        · have := ih g (by simp)
          simp [this]; exact fun h => hb h.symm
        · exact ih f (by simp [hf])

theorem splitFields_length (B : Bytes) : (splitFields B).length = B.count chComma + 1 := by
  induction B with
  | nil => rfl
  | cons b bs ih =>
    simp only [splitFields]
    split
    · rename_i hb; simp [hb, ih]
    · rename_i hb
      rcases hs : splitFields bs with _ | ⟨g, gs⟩
      · exact absurd hs (splitFields_ne_nil bs)
      · rw [hs] at ih
        simp only [List.length_cons] at ih ⊢
        rw [ih, List.count_cons_of_ne hb]

theorem splitFields_of_no_comma {f : Bytes} (h : chComma ∉ f) : splitFields f = [f] := by
  induction f with
  | nil => rfl
  | cons b bs ih =>
    simp only [List.mem_cons, not_or] at h
    simp [splitFields, Ne.symm h.1, ih h.2]

theorem splitFields_append_comma {f : Bytes} (B : Bytes) (h : chComma ∉ f) :
    splitFields (f ++ chComma :: B) = f :: splitFields B := by
  induction f with
  | nil => simp [splitFields]
  | cons b bs ih =>
    simp only [List.mem_cons, not_or] at h
    simp [splitFields, Ne.symm h.1, ih h.2]

/-- Splitting joined fields gives them back, if none holds a comma and there is one. -/
theorem splitFields_joinFields {fs : List Bytes} (hne : fs ≠ []) (h : ∀ f ∈ fs, chComma ∉ f) :
    splitFields (joinFields fs) = fs := by
  induction fs with
  | nil => exact absurd rfl hne
  | cons f gs ih =>
    cases gs with
    | nil => simpa [joinFields] using splitFields_of_no_comma (h f (by simp))
    | cons g gs =>
      rw [joinFields, splitFields_append_comma _ (h f (by simp)),
        ih (by simp) (fun f' hf' => h f' (by simp [hf']))]

/-- A byte of joined fields is a comma or a byte of a field. -/
theorem mem_joinFields {fs : List Bytes} {b : Byte} (h : b ∈ joinFields fs) : b = chComma ∨ ∃ f ∈ fs, b ∈ f := by
  induction fs with
  | nil => simp [joinFields] at h
  | cons f gs ih =>
    cases gs with
    | nil => exact .inr ⟨f, by simp, by simpa [joinFields] using h⟩
    | cons g gs =>
      rw [joinFields, List.mem_append, List.mem_cons] at h
      rcases h with h | h | h
      · exact .inr ⟨f, by simp, h⟩
      · exact .inl h
      · rcases ih h with h | ⟨f', hf', hb⟩
        · exact .inl h
        · exact .inr ⟨f', by simp [List.mem_cons.mp hf'], hb⟩

/-- A byte of a field is a byte of the joined fields. -/
theorem mem_joinFields_of_mem {fs : List Bytes} {f : Bytes} {b : Byte} (hf : f ∈ fs) (hb : b ∈ f) :
    b ∈ joinFields fs := by
  induction fs with
  | nil => simp at hf
  | cons f' gs ih =>
    cases gs with
    | nil => simp only [List.mem_singleton] at hf; subst hf; simpa [joinFields] using hb
    | cons g gs =>
      rw [joinFields, List.mem_append, List.mem_cons]
      rcases List.mem_cons.mp hf with rfl | hf
      · exact .inl hb
      · exact .inr (.inr (ih hf))

/-! ### Checksums and digits -/

theorem xor_foldl (B : Bytes) (a : Byte) : B.foldl (· ^^^ ·) a = a ^^^ nmeaXor B := by
  induction B generalizing a with
  | nil => simp [nmeaXor]
  | cons b bs ih =>
    simp only [nmeaXor, List.foldl_cons]
    rw [ih, ih (0x00#8 ^^^ b)]
    simp [BitVec.xor_assoc]

/-- The first Fletcher sum from any start. -/
theorem ubxCk_foldl_fst (D : Bytes) (ck : Byte × Byte) :
    (D.foldl ubxCkStep ck).1 = ck.1 + (D.foldl ubxCkStep (0x00#8, 0x00#8)).1 := by
  induction D generalizing ck with
  | nil => simp
  | cons d ds ih =>
    simp only [List.foldl_cons]
    rw [ih, ih (ubxCkStep (0x00#8, 0x00#8) d)]
    simp [ubxCkStep, BitVec.add_assoc]

/-- A valid digit is a hexadecimal digit (R64), so it is neither `\r`, `\n` nor `*`. -/
theorem hexValue_some_ne {c h : Byte} (hc : hexValue c = some h) : c ≠ chCR ∧ c ≠ chLF ∧ c ≠ chStar := by
  refine ⟨?_, ?_, ?_⟩ <;> rintro rfl <;> revert hc <;> simp [hexValue, chCR, chLF, chStar]

theorem hex2Dec_some {a b v : Byte} (h : hex2Dec a b = some v) : (hexValue a).isSome ∧ (hexValue b).isSome := by
  unfold hex2Dec at h
  split at h
  · simp [*]
  · cases h

end Sys2Proof.Machine
end

