-- ==== Sys2Proof/Laws/State.lean ====
section
/-! SUPPORT. Laws/State.lean: what each named update of State does to each field, so that no later proof unfolds one. -/

namespace Sys2Proof.Machine

/-! ### emit -/

@[simp] theorem emit_phase (k : Kind) (c : Nat) (s : State) : (s.emit k c).phase = s.phase := rfl
@[simp] theorem emit_mem (k : Kind) (c : Nat) (s : State) : (s.emit k c).mem = s.mem := rfl
@[simp] theorem emit_wlen (k : Kind) (c : Nat) (s : State) : (s.emit k c).wlen = s.wlen := rfl
@[simp] theorem emit_maxlen (k : Kind) (c : Nat) (s : State) : (s.emit k c).maxlen = s.maxlen := rfl
@[simp] theorem emit_off (k : Kind) (c : Nat) (s : State) : (s.emit k c).off = s.off := rfl
@[simp] theorem emit_pm (k : Kind) (c : Nat) (s : State) : (s.emit k c).pm = s.pm := rfl
@[simp] theorem emit_skip (k : Kind) (c : Nat) (s : State) : (s.emit k c).skip = s.skip := rfl
@[simp] theorem emit_x (k : Kind) (c : Nat) (s : State) : (s.emit k c).x = s.x := rfl
@[simp] theorem emit_ckA (k : Kind) (c : Nat) (s : State) : (s.emit k c).ckA = s.ckA := rfl
@[simp] theorem emit_ckB (k : Kind) (c : Nat) (s : State) : (s.emit k c).ckB = s.ckB := rfl
@[simp] theorem emit_len (k : Kind) (c : Nat) (s : State) : (s.emit k c).len = s.len := rfl
@[simp] theorem emit_j (k : Kind) (c : Nat) (s : State) : (s.emit k c).j = s.j := rfl
@[simp] theorem emit_i (k : Kind) (c : Nat) (s : State) : (s.emit k c).i = s.i := rfl
@[simp] theorem emit_e (k : Kind) (c : Nat) (s : State) : (s.emit k c).e = s.e := rfl
@[simp] theorem emit_results (k : Kind) (c : Nat) (s : State) : (s.emit k c).results = s.results ++ [⟨k, c⟩] := rfl
@[simp] theorem emit_rom (k : Kind) (c : Nat) (s : State) : (s.emit k c).rom = s.rom := rfl
@[simp] theorem emit_inbox (k : Kind) (c : Nat) (s : State) : (s.emit k c).inbox = s.inbox := rfl
@[simp] theorem emit_ret (k : Kind) (c : Nat) (s : State) : (s.emit k c).ret = s.ret := rfl
@[simp] theorem emit_emitted (k : Kind) (c : Nat) (s : State) : (s.emit k c).emitted = s.emitted ++ [⟨k, c⟩] := rfl

/-! ### freshCursor -/

@[simp] theorem freshCursor_phase (s : State) : (s.freshCursor).phase = s.phase := rfl
@[simp] theorem freshCursor_mem (s : State) : (s.freshCursor).mem = s.mem := rfl
@[simp] theorem freshCursor_wlen (s : State) : (s.freshCursor).wlen = s.wlen := rfl
@[simp] theorem freshCursor_maxlen (s : State) : (s.freshCursor).maxlen = s.maxlen := rfl
@[simp] theorem freshCursor_off (s : State) : (s.freshCursor).off = 0 := rfl
@[simp] theorem freshCursor_pm (s : State) : (s.freshCursor).pm = none := rfl
@[simp] theorem freshCursor_skip (s : State) : (s.freshCursor).skip = 0 := rfl
@[simp] theorem freshCursor_x (s : State) : (s.freshCursor).x = 0x00#8 := rfl
@[simp] theorem freshCursor_ckA (s : State) : (s.freshCursor).ckA = 0x00#8 := rfl
@[simp] theorem freshCursor_ckB (s : State) : (s.freshCursor).ckB = 0x00#8 := rfl
@[simp] theorem freshCursor_len (s : State) : (s.freshCursor).len = 0x0000#16 := rfl
@[simp] theorem freshCursor_j (s : State) : (s.freshCursor).j = 0 := rfl
@[simp] theorem freshCursor_i (s : State) : (s.freshCursor).i = 0 := rfl
@[simp] theorem freshCursor_e (s : State) : (s.freshCursor).e = 0 := rfl
@[simp] theorem freshCursor_results (s : State) : (s.freshCursor).results = s.results := rfl
@[simp] theorem freshCursor_rom (s : State) : (s.freshCursor).rom = s.rom := rfl
@[simp] theorem freshCursor_inbox (s : State) : (s.freshCursor).inbox = s.inbox := rfl
@[simp] theorem freshCursor_ret (s : State) : (s.freshCursor).ret = s.ret := rfl
@[simp] theorem freshCursor_emitted (s : State) : (s.freshCursor).emitted = s.emitted := rfl

/-! ### give -/

@[simp] theorem give_phase (r : Ret) (s : State) : (s.give r).phase = s.phase := rfl
@[simp] theorem give_mem (r : Ret) (s : State) : (s.give r).mem = s.mem := rfl
@[simp] theorem give_wlen (r : Ret) (s : State) : (s.give r).wlen = s.wlen := rfl
@[simp] theorem give_maxlen (r : Ret) (s : State) : (s.give r).maxlen = s.maxlen := rfl
@[simp] theorem give_off (r : Ret) (s : State) : (s.give r).off = s.off := rfl
@[simp] theorem give_pm (r : Ret) (s : State) : (s.give r).pm = s.pm := rfl
@[simp] theorem give_skip (r : Ret) (s : State) : (s.give r).skip = s.skip := rfl
@[simp] theorem give_x (r : Ret) (s : State) : (s.give r).x = s.x := rfl
@[simp] theorem give_ckA (r : Ret) (s : State) : (s.give r).ckA = s.ckA := rfl
@[simp] theorem give_ckB (r : Ret) (s : State) : (s.give r).ckB = s.ckB := rfl
@[simp] theorem give_len (r : Ret) (s : State) : (s.give r).len = s.len := rfl
@[simp] theorem give_j (r : Ret) (s : State) : (s.give r).j = s.j := rfl
@[simp] theorem give_i (r : Ret) (s : State) : (s.give r).i = s.i := rfl
@[simp] theorem give_e (r : Ret) (s : State) : (s.give r).e = s.e := rfl
@[simp] theorem give_results (r : Ret) (s : State) : (s.give r).results = s.results := rfl
@[simp] theorem give_rom (r : Ret) (s : State) : (s.give r).rom = s.rom := rfl
@[simp] theorem give_inbox (r : Ret) (s : State) : (s.give r).inbox = s.inbox := rfl
@[simp] theorem give_ret (r : Ret) (s : State) : (s.give r).ret = r := rfl
@[simp] theorem give_emitted (r : Ret) (s : State) : (s.give r).emitted = s.emitted := rfl

/-! ### writeSums -/

@[simp] theorem writeSums_phase (D : Bytes) (s : State) : (s.writeSums D).phase = s.phase := rfl
@[simp] theorem writeSums_mem (D : Bytes) (s : State) : (s.writeSums D).mem = s.mem := rfl
@[simp] theorem writeSums_wlen (D : Bytes) (s : State) : (s.writeSums D).wlen = s.wlen := rfl
@[simp] theorem writeSums_maxlen (D : Bytes) (s : State) : (s.writeSums D).maxlen = s.maxlen := rfl
@[simp] theorem writeSums_off (D : Bytes) (s : State) : (s.writeSums D).off = s.off := rfl
@[simp] theorem writeSums_pm (D : Bytes) (s : State) : (s.writeSums D).pm = s.pm := rfl
@[simp] theorem writeSums_skip (D : Bytes) (s : State) : (s.writeSums D).skip = s.skip := rfl
@[simp] theorem writeSums_x (D : Bytes) (s : State) : (s.writeSums D).x = s.x := rfl
@[simp] theorem writeSums_ckA (D : Bytes) (s : State) : (s.writeSums D).ckA = (ubxCk D).1 := rfl
@[simp] theorem writeSums_ckB (D : Bytes) (s : State) : (s.writeSums D).ckB = (ubxCk D).2 := rfl
@[simp] theorem writeSums_len (D : Bytes) (s : State) : (s.writeSums D).len = s.len := rfl
@[simp] theorem writeSums_j (D : Bytes) (s : State) : (s.writeSums D).j = s.j := rfl
@[simp] theorem writeSums_i (D : Bytes) (s : State) : (s.writeSums D).i = s.i := rfl
@[simp] theorem writeSums_e (D : Bytes) (s : State) : (s.writeSums D).e = s.e := rfl
@[simp] theorem writeSums_results (D : Bytes) (s : State) : (s.writeSums D).results = s.results := rfl
@[simp] theorem writeSums_rom (D : Bytes) (s : State) : (s.writeSums D).rom = s.rom := rfl
@[simp] theorem writeSums_inbox (D : Bytes) (s : State) : (s.writeSums D).inbox = s.inbox := rfl
@[simp] theorem writeSums_ret (D : Bytes) (s : State) : (s.writeSums D).ret = s.ret := rfl
@[simp] theorem writeSums_emitted (D : Bytes) (s : State) : (s.writeSums D).emitted = s.emitted := rfl

/-! ### placeWindow -/

@[simp] theorem placeWindow_phase (bs : Bytes) (s : State) : (s.placeWindow bs).phase = .scanning := rfl
@[simp] theorem placeWindow_mem (bs : Bytes) (s : State) : (s.placeWindow bs).mem = memoryLoad bs := rfl
@[simp] theorem placeWindow_wlen (bs : Bytes) (s : State) : (s.placeWindow bs).wlen = bs.length := rfl
@[simp] theorem placeWindow_maxlen (bs : Bytes) (s : State) : (s.placeWindow bs).maxlen = s.maxlen := rfl
@[simp] theorem placeWindow_off (bs : Bytes) (s : State) : (s.placeWindow bs).off = 0 := rfl
@[simp] theorem placeWindow_pm (bs : Bytes) (s : State) : (s.placeWindow bs).pm = none := rfl
@[simp] theorem placeWindow_skip (bs : Bytes) (s : State) : (s.placeWindow bs).skip = 0 := rfl
@[simp] theorem placeWindow_x (bs : Bytes) (s : State) : (s.placeWindow bs).x = 0x00#8 := rfl
@[simp] theorem placeWindow_ckA (bs : Bytes) (s : State) : (s.placeWindow bs).ckA = 0x00#8 := rfl
@[simp] theorem placeWindow_ckB (bs : Bytes) (s : State) : (s.placeWindow bs).ckB = 0x00#8 := rfl
@[simp] theorem placeWindow_len (bs : Bytes) (s : State) : (s.placeWindow bs).len = 0x0000#16 := rfl
@[simp] theorem placeWindow_j (bs : Bytes) (s : State) : (s.placeWindow bs).j = 0 := rfl
@[simp] theorem placeWindow_i (bs : Bytes) (s : State) : (s.placeWindow bs).i = 0 := rfl
@[simp] theorem placeWindow_e (bs : Bytes) (s : State) : (s.placeWindow bs).e = 0 := rfl
@[simp] theorem placeWindow_results (bs : Bytes) (s : State) : (s.placeWindow bs).results = [] := rfl
@[simp] theorem placeWindow_rom (bs : Bytes) (s : State) : (s.placeWindow bs).rom = s.rom := rfl
@[simp] theorem placeWindow_inbox (bs : Bytes) (s : State) : (s.placeWindow bs).inbox = [] := rfl
@[simp] theorem placeWindow_ret (bs : Bytes) (s : State) : (s.placeWindow bs).ret = s.ret := rfl
@[simp] theorem placeWindow_emitted (bs : Bytes) (s : State) : (s.placeWindow bs).emitted = s.emitted := rfl

/-! ### powerOn -/

@[simp] theorem powerOn_phase (q : List HostMove) (s : State) : (s.powerOn q).phase = State.reset.phase := rfl
@[simp] theorem powerOn_mem (q : List HostMove) (s : State) : (s.powerOn q).mem = State.reset.mem := rfl
@[simp] theorem powerOn_wlen (q : List HostMove) (s : State) : (s.powerOn q).wlen = State.reset.wlen := rfl
@[simp] theorem powerOn_maxlen (q : List HostMove) (s : State) : (s.powerOn q).maxlen = State.reset.maxlen := rfl
@[simp] theorem powerOn_off (q : List HostMove) (s : State) : (s.powerOn q).off = State.reset.off := rfl
@[simp] theorem powerOn_pm (q : List HostMove) (s : State) : (s.powerOn q).pm = State.reset.pm := rfl
@[simp] theorem powerOn_skip (q : List HostMove) (s : State) : (s.powerOn q).skip = State.reset.skip := rfl
@[simp] theorem powerOn_x (q : List HostMove) (s : State) : (s.powerOn q).x = State.reset.x := rfl
@[simp] theorem powerOn_ckA (q : List HostMove) (s : State) : (s.powerOn q).ckA = State.reset.ckA := rfl
@[simp] theorem powerOn_ckB (q : List HostMove) (s : State) : (s.powerOn q).ckB = State.reset.ckB := rfl
@[simp] theorem powerOn_len (q : List HostMove) (s : State) : (s.powerOn q).len = State.reset.len := rfl
@[simp] theorem powerOn_j (q : List HostMove) (s : State) : (s.powerOn q).j = State.reset.j := rfl
@[simp] theorem powerOn_i (q : List HostMove) (s : State) : (s.powerOn q).i = State.reset.i := rfl
@[simp] theorem powerOn_e (q : List HostMove) (s : State) : (s.powerOn q).e = State.reset.e := rfl
@[simp] theorem powerOn_results (q : List HostMove) (s : State) : (s.powerOn q).results = State.reset.results := rfl
@[simp] theorem powerOn_rom (q : List HostMove) (s : State) : (s.powerOn q).rom = State.reset.rom := rfl
@[simp] theorem powerOn_inbox (q : List HostMove) (s : State) : (s.powerOn q).inbox = q := rfl
@[simp] theorem powerOn_ret (q : List HostMove) (s : State) : (s.powerOn q).ret = State.reset.ret := rfl
@[simp] theorem powerOn_emitted (q : List HostMove) (s : State) : (s.powerOn q).emitted = s.emitted := rfl

/-! ### flushSkip -/

@[simp] theorem flushSkip_phase (s : State) : (s.flushSkip).phase = s.phase := by
  unfold State.flushSkip; split <;> rfl
@[simp] theorem flushSkip_mem (s : State) : (s.flushSkip).mem = s.mem := by
  unfold State.flushSkip; split <;> rfl
@[simp] theorem flushSkip_wlen (s : State) : (s.flushSkip).wlen = s.wlen := by
  unfold State.flushSkip; split <;> rfl
@[simp] theorem flushSkip_maxlen (s : State) : (s.flushSkip).maxlen = s.maxlen := by
  unfold State.flushSkip; split <;> rfl
@[simp] theorem flushSkip_off (s : State) : (s.flushSkip).off = s.off := by
  unfold State.flushSkip; split <;> rfl
@[simp] theorem flushSkip_pm (s : State) : (s.flushSkip).pm = s.pm := by
  unfold State.flushSkip; split <;> rfl
@[simp] theorem flushSkip_x (s : State) : (s.flushSkip).x = s.x := by
  unfold State.flushSkip; split <;> rfl
@[simp] theorem flushSkip_ckA (s : State) : (s.flushSkip).ckA = s.ckA := by
  unfold State.flushSkip; split <;> rfl
@[simp] theorem flushSkip_ckB (s : State) : (s.flushSkip).ckB = s.ckB := by
  unfold State.flushSkip; split <;> rfl
@[simp] theorem flushSkip_len (s : State) : (s.flushSkip).len = s.len := by
  unfold State.flushSkip; split <;> rfl
@[simp] theorem flushSkip_j (s : State) : (s.flushSkip).j = s.j := by
  unfold State.flushSkip; split <;> rfl
@[simp] theorem flushSkip_i (s : State) : (s.flushSkip).i = s.i := by
  unfold State.flushSkip; split <;> rfl
@[simp] theorem flushSkip_e (s : State) : (s.flushSkip).e = s.e := by
  unfold State.flushSkip; split <;> rfl
@[simp] theorem flushSkip_rom (s : State) : (s.flushSkip).rom = s.rom := by
  unfold State.flushSkip; split <;> rfl
@[simp] theorem flushSkip_inbox (s : State) : (s.flushSkip).inbox = s.inbox := by
  unfold State.flushSkip; split <;> rfl
@[simp] theorem flushSkip_ret (s : State) : (s.flushSkip).ret = s.ret := by
  unfold State.flushSkip; split <;> rfl

@[simp] theorem flushSkip_skip (s : State) : s.flushSkip.skip = 0 := by
  unfold State.flushSkip; split <;> simp_all

theorem flushSkip_results (s : State) :
    s.flushSkip.results = s.results ++ (if 0 < s.skip then [⟨.unrecognizedBytes, s.skip⟩] else []) := by
  unfold State.flushSkip; split <;> simp [State.emit]

theorem flushSkip_emitted (s : State) :
    s.flushSkip.emitted = s.emitted ++ (if 0 < s.skip then [⟨.unrecognizedBytes, s.skip⟩] else []) := by
  unfold State.flushSkip; split <;> simp [State.emit]

theorem flushSkip_of_zero {s : State} (h : s.skip = 0) : s.flushSkip = s := by
  simp [State.flushSkip, h]

/-! ### endPass -/

@[simp] theorem endPass_phase (s : State) : s.endPass.phase = .idle := rfl
@[simp] theorem endPass_mem (s : State) : s.endPass.mem = s.mem := flushSkip_mem s
@[simp] theorem endPass_wlen (s : State) : s.endPass.wlen = s.wlen := flushSkip_wlen s
@[simp] theorem endPass_maxlen (s : State) : s.endPass.maxlen = s.maxlen := flushSkip_maxlen s
@[simp] theorem endPass_off (s : State) : s.endPass.off = 0 := rfl
@[simp] theorem endPass_pm (s : State) : s.endPass.pm = none := rfl
@[simp] theorem endPass_skip (s : State) : s.endPass.skip = 0 := rfl
@[simp] theorem endPass_x (s : State) : s.endPass.x = 0x00#8 := rfl
@[simp] theorem endPass_ckA (s : State) : s.endPass.ckA = 0x00#8 := rfl
@[simp] theorem endPass_ckB (s : State) : s.endPass.ckB = 0x00#8 := rfl
@[simp] theorem endPass_len (s : State) : s.endPass.len = 0x0000#16 := rfl
@[simp] theorem endPass_j (s : State) : s.endPass.j = 0 := rfl
@[simp] theorem endPass_i (s : State) : s.endPass.i = 0 := rfl
@[simp] theorem endPass_e (s : State) : s.endPass.e = 0 := rfl
@[simp] theorem endPass_results (s : State) : s.endPass.results = s.flushSkip.results := rfl
@[simp] theorem endPass_rom (s : State) : s.endPass.rom = s.rom := flushSkip_rom s
@[simp] theorem endPass_inbox (s : State) : s.endPass.inbox = s.inbox := flushSkip_inbox s
@[simp] theorem endPass_ret (s : State) : s.endPass.ret = s.ret := flushSkip_ret s
@[simp] theorem endPass_emitted (s : State) : s.endPass.emitted = s.flushSkip.emitted := rfl

/-! ### writeFrameMarks -/

@[simp] theorem writeFrameMarks_phase (S : Bytes) (s : State) : (s.writeFrameMarks S).phase = s.phase := by
  unfold State.writeFrameMarks; (repeat' split) <;> rfl
@[simp] theorem writeFrameMarks_mem (S : Bytes) (s : State) : (s.writeFrameMarks S).mem = s.mem := by
  unfold State.writeFrameMarks; (repeat' split) <;> rfl
@[simp] theorem writeFrameMarks_wlen (S : Bytes) (s : State) : (s.writeFrameMarks S).wlen = s.wlen := by
  unfold State.writeFrameMarks; (repeat' split) <;> rfl
@[simp] theorem writeFrameMarks_maxlen (S : Bytes) (s : State) : (s.writeFrameMarks S).maxlen = s.maxlen := by
  unfold State.writeFrameMarks; (repeat' split) <;> rfl
@[simp] theorem writeFrameMarks_off (S : Bytes) (s : State) : (s.writeFrameMarks S).off = s.off := by
  unfold State.writeFrameMarks; (repeat' split) <;> rfl
@[simp] theorem writeFrameMarks_pm (S : Bytes) (s : State) : (s.writeFrameMarks S).pm = s.pm := by
  unfold State.writeFrameMarks; (repeat' split) <;> rfl
@[simp] theorem writeFrameMarks_skip (S : Bytes) (s : State) : (s.writeFrameMarks S).skip = s.skip := by
  unfold State.writeFrameMarks; (repeat' split) <;> rfl
@[simp] theorem writeFrameMarks_x (S : Bytes) (s : State) : (s.writeFrameMarks S).x = s.x := by
  unfold State.writeFrameMarks; (repeat' split) <;> rfl
@[simp] theorem writeFrameMarks_ckA (S : Bytes) (s : State) : (s.writeFrameMarks S).ckA = s.ckA := by
  unfold State.writeFrameMarks; (repeat' split) <;> rfl
@[simp] theorem writeFrameMarks_ckB (S : Bytes) (s : State) : (s.writeFrameMarks S).ckB = s.ckB := by
  unfold State.writeFrameMarks; (repeat' split) <;> rfl
@[simp] theorem writeFrameMarks_len (S : Bytes) (s : State) : (s.writeFrameMarks S).len = s.len := by
  unfold State.writeFrameMarks; (repeat' split) <;> rfl
@[simp] theorem writeFrameMarks_j (S : Bytes) (s : State) : (s.writeFrameMarks S).j = s.j := by
  unfold State.writeFrameMarks; (repeat' split) <;> rfl
@[simp] theorem writeFrameMarks_results (S : Bytes) (s : State) : (s.writeFrameMarks S).results = s.results := by
  unfold State.writeFrameMarks; (repeat' split) <;> rfl
@[simp] theorem writeFrameMarks_rom (S : Bytes) (s : State) : (s.writeFrameMarks S).rom = s.rom := by
  unfold State.writeFrameMarks; (repeat' split) <;> rfl
@[simp] theorem writeFrameMarks_inbox (S : Bytes) (s : State) : (s.writeFrameMarks S).inbox = s.inbox := by
  unfold State.writeFrameMarks; (repeat' split) <;> rfl
@[simp] theorem writeFrameMarks_ret (S : Bytes) (s : State) : (s.writeFrameMarks S).ret = s.ret := by
  unfold State.writeFrameMarks; (repeat' split) <;> rfl
@[simp] theorem writeFrameMarks_emitted (S : Bytes) (s : State) : (s.writeFrameMarks S).emitted = s.emitted := by
  unfold State.writeFrameMarks; (repeat' split) <;> rfl

/-! ### writeSentenceScratch -/

@[simp] theorem writeSentenceScratch_phase (S : Bytes) (s : State) : (s.writeSentenceScratch S).phase = s.phase := by
  unfold State.writeSentenceScratch; split <;> simp
@[simp] theorem writeSentenceScratch_mem (S : Bytes) (s : State) : (s.writeSentenceScratch S).mem = s.mem := by
  unfold State.writeSentenceScratch; split <;> simp
@[simp] theorem writeSentenceScratch_wlen (S : Bytes) (s : State) : (s.writeSentenceScratch S).wlen = s.wlen := by
  unfold State.writeSentenceScratch; split <;> simp
@[simp] theorem writeSentenceScratch_maxlen (S : Bytes) (s : State) : (s.writeSentenceScratch S).maxlen = s.maxlen := by
  unfold State.writeSentenceScratch; split <;> simp
@[simp] theorem writeSentenceScratch_off (S : Bytes) (s : State) : (s.writeSentenceScratch S).off = s.off := by
  unfold State.writeSentenceScratch; split <;> simp
@[simp] theorem writeSentenceScratch_pm (S : Bytes) (s : State) : (s.writeSentenceScratch S).pm = s.pm := by
  unfold State.writeSentenceScratch; split <;> simp
@[simp] theorem writeSentenceScratch_skip (S : Bytes) (s : State) : (s.writeSentenceScratch S).skip = s.skip := by
  unfold State.writeSentenceScratch; split <;> simp
@[simp] theorem writeSentenceScratch_ckA (S : Bytes) (s : State) : (s.writeSentenceScratch S).ckA = s.ckA := by
  unfold State.writeSentenceScratch; split <;> simp
@[simp] theorem writeSentenceScratch_ckB (S : Bytes) (s : State) : (s.writeSentenceScratch S).ckB = s.ckB := by
  unfold State.writeSentenceScratch; split <;> simp
@[simp] theorem writeSentenceScratch_len (S : Bytes) (s : State) : (s.writeSentenceScratch S).len = s.len := by
  unfold State.writeSentenceScratch; split <;> simp
@[simp] theorem writeSentenceScratch_j (S : Bytes) (s : State) : (s.writeSentenceScratch S).j = s.j := by
  unfold State.writeSentenceScratch; split <;> simp
@[simp] theorem writeSentenceScratch_results (S : Bytes) (s : State) : (s.writeSentenceScratch S).results = s.results := by
  unfold State.writeSentenceScratch; split <;> simp
@[simp] theorem writeSentenceScratch_rom (S : Bytes) (s : State) : (s.writeSentenceScratch S).rom = s.rom := by
  unfold State.writeSentenceScratch; split <;> simp
@[simp] theorem writeSentenceScratch_inbox (S : Bytes) (s : State) : (s.writeSentenceScratch S).inbox = s.inbox := by
  unfold State.writeSentenceScratch; split <;> simp
@[simp] theorem writeSentenceScratch_ret (S : Bytes) (s : State) : (s.writeSentenceScratch S).ret = s.ret := by
  unfold State.writeSentenceScratch; split <;> simp
@[simp] theorem writeSentenceScratch_emitted (S : Bytes) (s : State) : (s.writeSentenceScratch S).emitted = s.emitted := by
  unfold State.writeSentenceScratch; split <;> simp

/-! ### writeFrameScratch -/

@[simp] theorem writeFrameScratch_phase (S : Bytes) (s : State) : (s.writeFrameScratch S).phase = s.phase := by
  unfold State.writeFrameScratch; (repeat' split) <;> rfl
@[simp] theorem writeFrameScratch_mem (S : Bytes) (s : State) : (s.writeFrameScratch S).mem = s.mem := by
  unfold State.writeFrameScratch; (repeat' split) <;> rfl
@[simp] theorem writeFrameScratch_wlen (S : Bytes) (s : State) : (s.writeFrameScratch S).wlen = s.wlen := by
  unfold State.writeFrameScratch; (repeat' split) <;> rfl
@[simp] theorem writeFrameScratch_maxlen (S : Bytes) (s : State) : (s.writeFrameScratch S).maxlen = s.maxlen := by
  unfold State.writeFrameScratch; (repeat' split) <;> rfl
@[simp] theorem writeFrameScratch_off (S : Bytes) (s : State) : (s.writeFrameScratch S).off = s.off := by
  unfold State.writeFrameScratch; (repeat' split) <;> rfl
@[simp] theorem writeFrameScratch_pm (S : Bytes) (s : State) : (s.writeFrameScratch S).pm = s.pm := by
  unfold State.writeFrameScratch; (repeat' split) <;> rfl
@[simp] theorem writeFrameScratch_skip (S : Bytes) (s : State) : (s.writeFrameScratch S).skip = s.skip := by
  unfold State.writeFrameScratch; (repeat' split) <;> rfl
@[simp] theorem writeFrameScratch_x (S : Bytes) (s : State) : (s.writeFrameScratch S).x = s.x := by
  unfold State.writeFrameScratch; (repeat' split) <;> rfl
@[simp] theorem writeFrameScratch_j (S : Bytes) (s : State) : (s.writeFrameScratch S).j = s.j := by
  unfold State.writeFrameScratch; (repeat' split) <;> rfl
@[simp] theorem writeFrameScratch_i (S : Bytes) (s : State) : (s.writeFrameScratch S).i = s.i := by
  unfold State.writeFrameScratch; (repeat' split) <;> rfl
@[simp] theorem writeFrameScratch_e (S : Bytes) (s : State) : (s.writeFrameScratch S).e = s.e := by
  unfold State.writeFrameScratch; (repeat' split) <;> rfl
@[simp] theorem writeFrameScratch_results (S : Bytes) (s : State) : (s.writeFrameScratch S).results = s.results := by
  unfold State.writeFrameScratch; (repeat' split) <;> rfl
@[simp] theorem writeFrameScratch_rom (S : Bytes) (s : State) : (s.writeFrameScratch S).rom = s.rom := by
  unfold State.writeFrameScratch; (repeat' split) <;> rfl
@[simp] theorem writeFrameScratch_inbox (S : Bytes) (s : State) : (s.writeFrameScratch S).inbox = s.inbox := by
  unfold State.writeFrameScratch; (repeat' split) <;> rfl
@[simp] theorem writeFrameScratch_ret (S : Bytes) (s : State) : (s.writeFrameScratch S).ret = s.ret := by
  unfold State.writeFrameScratch; (repeat' split) <;> rfl
@[simp] theorem writeFrameScratch_emitted (S : Bytes) (s : State) : (s.writeFrameScratch S).emitted = s.emitted := by
  unfold State.writeFrameScratch; (repeat' split) <;> rfl

/-! ### recognise -/

@[simp] theorem recognise_phase (bs : Bytes) (s : State) : (s.recognise bs).phase = s.phase := by
  unfold State.recognise; (repeat' split) <;> simp
@[simp] theorem recognise_mem (bs : Bytes) (s : State) : (s.recognise bs).mem = s.mem := by
  unfold State.recognise; (repeat' split) <;> simp
@[simp] theorem recognise_wlen (bs : Bytes) (s : State) : (s.recognise bs).wlen = s.wlen := by
  unfold State.recognise; (repeat' split) <;> simp
@[simp] theorem recognise_maxlen (bs : Bytes) (s : State) : (s.recognise bs).maxlen = s.maxlen := by
  unfold State.recognise; (repeat' split) <;> simp
@[simp] theorem recognise_off (bs : Bytes) (s : State) : (s.recognise bs).off = s.off := by
  unfold State.recognise; (repeat' split) <;> simp
@[simp] theorem recognise_pm (bs : Bytes) (s : State) : (s.recognise bs).pm = s.pm := by
  unfold State.recognise; (repeat' split) <;> simp
@[simp] theorem recognise_rom (bs : Bytes) (s : State) : (s.recognise bs).rom = s.rom := by
  unfold State.recognise; (repeat' split) <;> simp
@[simp] theorem recognise_inbox (bs : Bytes) (s : State) : (s.recognise bs).inbox = s.inbox := by
  unfold State.recognise; (repeat' split) <;> simp
@[simp] theorem recognise_ret (bs : Bytes) (s : State) : (s.recognise bs).ret = s.ret := by
  unfold State.recognise; (repeat' split) <;> simp

end Sys2Proof.Machine
end

