-- ==== Sys2Proof/Laws/Memory.lean ====
section
/-! SUPPORT. Laws/Memory.lean: the window (R30, R31; log 3): every operation keeps its canonical form, and a lent window reads back. -/

namespace Sys2Proof.Machine

/-- Loading a window gives canonical cells within its length. -/
theorem memoryLoadFrom_wf (bs : Bytes) (lo a n : Nat) (hlo : lo ≤ a) (hn : a + bs.length ≤ n) :
    memoryWfFrom lo n (memoryLoadFrom a bs) = true := by
  induction bs generalizing lo a with
  | nil => rfl
  | cons b bs ih =>
    simp only [List.length_cons] at hn
    simp only [memoryLoadFrom]
    split
    · exact ih lo (a + 1) (by omega) (by omega)
    · simp only [memoryWfFrom, Bool.and_eq_true, decide_eq_true_eq, bne_iff_ne]
      exact ⟨⟨⟨hlo, by omega⟩, by assumption⟩, ih (a + 1) (a + 1) le_rfl (by omega)⟩

theorem memoryLoad_wf (bs : Bytes) : memoryWf bs.length (memoryLoad bs) = true :=
  memoryLoadFrom_wf bs 0 0 bs.length le_rfl (by omega)

theorem memoryWf_nil (n : Nat) : memoryWf n [] = true := rfl

theorem memoryRead_loadFrom_lt (bs : Bytes) (a k : Nat) (h : k < a) :
    memoryRead (memoryLoadFrom a bs) k = Config.unlistedByte := by
  induction bs generalizing a with
  | nil => rfl
  | cons b bs ih =>
    simp only [memoryLoadFrom]
    split
    · exact ih (a + 1) (by omega)
    · simp only [memoryRead]
      rw [if_neg (by omega)]
      exact ih (a + 1) (by omega)

theorem memoryRead_loadFrom (bs : Bytes) (a k : Nat) :
    memoryRead (memoryLoadFrom a bs) (a + k) = bs.getD k Config.unlistedByte := by
  induction bs generalizing a k with
  | nil => simp [memoryLoadFrom, memoryRead]
  | cons b bs ih =>
    cases k with
    | zero =>
      simp only [memoryLoadFrom]
      split
      · rename_i h
        rw [memoryRead_loadFrom_lt _ _ _ (by omega)]; simp [h]
      · simp [memoryRead]
    | succ k =>
      have h1 := ih (a + 1) k
      rw [show a + 1 + k = a + (k + 1) by omega] at h1
      simp only [memoryLoadFrom]
      split
      · simpa using h1
      · simp only [memoryRead]
        rw [if_neg (by omega), h1]; simp

/-- A lent window reads back, byte for byte (R31). -/
theorem memoryRead_load (bs : Bytes) (k : Nat) : memoryRead (memoryLoad bs) k = bs.getD k Config.unlistedByte := by
  simpa [memoryLoad] using memoryRead_loadFrom bs 0 k

theorem windowSlice_length (s : State) (a b : Nat) : (windowSlice s a b).length = min b s.wlen - a := by
  simp [windowSlice]

theorem fetchBytes_length (s : State) : (fetchBytes s).length = s.wlen - s.off := by
  simp [fetchBytes, windowSlice_length]

theorem windowSlice_getElem? (s : State) (a b k : Nat) :
    (windowSlice s a b)[k]? = if a + k < b then windowByte s (a + k) else none := by
  unfold windowSlice windowByte
  rw [List.getElem?_map]
  by_cases h1 : k < min b s.wlen - a
  · rw [List.getElem?_range' h1]
    simp [show a + k < b by omega, show a + k < s.wlen by omega]
  · rw [List.getElem?_eq_none (by simpa using h1)]
    by_cases h2 : a + k < b
    · rw [if_pos h2, if_neg (by omega)]; rfl
    · rw [if_neg h2]; rfl

theorem fetchBytes_getElem? (s : State) (k : Nat) : (fetchBytes s)[k]? = windowByte s (s.off + k) := by
  rw [fetchBytes, windowSlice_getElem?]
  unfold windowByte
  split <;> simp_all

/-- The front of what the decoder is given is the slice of the window behind the cursor. -/
theorem fetchBytes_take (s : State) (n : Nat) : (fetchBytes s).take n = windowSlice s s.off (s.off + n) := by
  apply List.ext_getElem?
  intro k
  rw [List.getElem?_take, fetchBytes_getElem?, windowSlice_getElem?]
  by_cases h : k < n
  · rw [if_pos h, if_pos (by omega)]
  · rw [if_neg h, if_neg (by omega)]

/-- Two states with the same cells, length and cursor offer the decoder the same bytes. -/
theorem fetchBytes_congr {s t : State} (hm : t.mem = s.mem) (hl : t.wlen = s.wlen) (ho : t.off = s.off) :
    fetchBytes t = fetchBytes s := by
  simp [fetchBytes, windowSlice, hm, hl, ho]

theorem windowByte_congr {s t : State} (hm : t.mem = s.mem) (hl : t.wlen = s.wlen) (a : Nat) :
    windowByte t a = windowByte s a := by
  simp [windowByte, hm, hl]

/-- A window lent as `bs` reads as `bs`. -/
theorem windowByte_of_load {s : State} {bs : Bytes} (hm : s.mem = memoryLoad bs) (hl : s.wlen = bs.length) (a : Nat) :
    windowByte s a = bs[a]? := by
  unfold windowByte
  rw [hm, hl, memoryRead_load]
  split
  · rename_i h; simp [List.getD_eq_getElem?_getD, List.getElem?_eq_getElem h]
  · rename_i h; rw [List.getElem?_eq_none (by omega)]

/-- The bytes at a cursor of a window lent as `bs`. -/
theorem fetchBytes_of_load {s : State} {bs : Bytes} (hm : s.mem = memoryLoad bs) (hl : s.wlen = bs.length) :
    fetchBytes s = bs.drop s.off := by
  apply List.ext_getElem?
  intro k
  rw [fetchBytes_getElem?, windowByte_of_load hm hl, List.getElem?_drop]

end Sys2Proof.Machine
end

