-- ==== Sys2Proof/Laws/Ops.lean ====
section
/-! SUPPORT. Laws/Ops.lean: for each shared operation, once, everything it can do: what an answer `next t` tells, and what the operation
answers where its condition holds. Later proofs cite these and unfold none of the operations. -/

namespace Sys2Proof.Machine

/-! ### Guards -/

theorem inPass_eq_next {s t : State} {k : Out} : inPass s k = .next t ↔ s.phase = .scanning ∧ k = .next t := by
  unfold inPass; split <;> simp_all

@[simp] theorem inPass_of_scanning {s : State} {k : Out} (h : s.phase = .scanning) : inPass s k = k := by
  simp [inPass, h]

@[simp] theorem inPass_of_idle {s : State} {k : Out} (h : s.phase = .idle) : inPass s k = .refused .noPass := by
  simp [inPass, h]

theorem atByte_eq_next {s t : State} {k : Out} : atByte s k = .next t ↔ s.off < s.wlen ∧ k = .next t := by
  unfold atByte; split <;> simp_all

theorem atByte_of_lt {s : State} {k : Out} (h : s.off < s.wlen) : atByte s k = k := by simp [atByte, h]

theorem withPayload_eq_next {P : Bytes} {t : State} {k : Out} :
    withPayload P k = .next t ↔ P.length ≤ 65535 ∧ k = .next t := by
  unfold withPayload; split <;> simp_all

theorem withPayload_of_le {P : Bytes} {k : Out} (h : P.length ≤ 65535) : withPayload P k = k := by simp [withPayload, h]

theorem withPayload_of_lt {P : Bytes} {k : Out} (h : 65535 < P.length) : withPayload P k = .refused .payloadTooLong := by
  simp [withPayload]; omega

/-! ### Results -/

/-- An exception is taken, or an item reported, by one more result and a cursor behind its bytes (R113, R142). -/
theorem report_eq_next {k : Kind} {c : Nat} {s t : State} :
    report k c s = .next t ↔ s.off + c ≤ s.wlen ∧ t = { s.emit k c with off := s.off + c } := by
  unfold report
  split
  · simp_all [eq_comm]
  · simp_all

theorem report_of_le {k : Kind} {c : Nat} {s : State} (h : s.off + c ≤ s.wlen) :
    report k c s = .next { s.emit k c with off := s.off + c } := by simp [report, h]

/-- What a field parser's operation answers: it never stops. -/
theorem giveParsed_eq {α : Type} (r : Option α) (mk : α → Ret) (s : State) :
    giveParsed r mk s = .next (s.give (r.elim .fail mk)) := by
  cases r <;> rfl

theorem presentFrame_eq (f : RomFrame) (s : State) : presentFrame f s = .next (s.give (.bytes (romFrameBytes f))) := rfl

/-! ### The end of a pass -/

theorem finishPass_of_lt {s : State} (h : s.off < s.wlen) : s.finishPass = s := by
  unfold State.finishPass; rw [if_neg]; omega

theorem finishPass_of_le {s : State} (hp : s.phase = .scanning) (h : s.wlen ≤ s.off) : s.finishPass = s.endPass := by
  simp [State.finishPass, hp, h]

theorem finishPass_of_idle {s : State} (h : s.phase = .idle) : s.finishPass = s := by
  simp [State.finishPass, h]

theorem thenFinish_eq_next {o : Out} {t : State} : thenFinish o = .next t ↔ ∃ u, o = .next u ∧ t = u.finishPass := by
  cases o <;> simp [thenFinish, eq_comm]

@[simp] theorem thenFinish_next (t : State) : thenFinish (.next t) = .next t.finishPass := rfl

/-- Discarding a discarded cursor changes nothing. -/
theorem freshCursor_freshCursor (s : State) : s.freshCursor.freshCursor = s.freshCursor := rfl

theorem endPass_freshCursor (s : State) : s.endPass.freshCursor = s.endPass := rfl

/-! ### The steps of the machine -/

theorem run_succ_of (M : Host.Core) {n : Nat} {s t : M.State} (h : M.step s = .next t) : M.run (n + 1) s = M.run n t := by
  simp only [Host.Core.run, h]

theorem blockStep_idle {s : State} (h : s.phase = .idle) : blockStep s = .next s := by simp [blockStep, h]

theorem blockStep_scanning {s : State} (h : s.phase = .scanning) (hb : s.off < s.wlen) : blockStep s = scanStep s := by
  simp [blockStep, h, hb]

theorem machineStep_of_empty {s : State} (h : s.inbox = []) : machineStep s = blockStep s := by
  simp [machineStep, h]

/-- A move that has no place in a running pass waits: the block makes its step (R18, R26; log 5). -/
theorem machineStep_of_waiting {s : State} {m : HostMove} {q : List HostMove} (hi : s.inbox = m :: q) (hp : s.phase = .scanning)
    (hm : (∃ v, m = .writeMaxlen v) ∨ ∃ w, m = .start w) : machineStep s = blockStep s := by
  rcases hm with ⟨v, rfl⟩ | ⟨w, rfl⟩ <;> simp [machineStep, hi, hp]

theorem machineStep_of_wait {s : State} {q : List HostMove} (hi : s.inbox = .wait :: q) :
    machineStep s = blockStep { s with inbox := q } := by
  simp [machineStep, hi]

theorem machineStep_of_start {s : State} {w : Option Bytes} {q : List HostMove} (hi : s.inbox = .start w :: q) (hp : s.phase = .idle) :
    machineStep s = .next ({ s with inbox := q }.startPass w) := by
  simp [machineStep, hi, hp]

theorem machineStep_of_writeMaxlen {s : State} {v : Nat} {q : List HostMove} (hi : s.inbox = .writeMaxlen v :: q)
    (hp : s.phase = .idle) : machineStep s = writeMaxlen v { s with inbox := q } := by
  simp [machineStep, hi, hp]

theorem machineStep_of_reset {s : State} {q : List HostMove} (hi : s.inbox = .reset :: q) : machineStep s = .next (s.powerOn q) := by
  simp [machineStep, hi]

theorem machineStep_of_romRead {s : State} {k : Fin 7} {q : List HostMove} (hi : s.inbox = .romRead k :: q) :
    machineStep s = .next ({ s with inbox := q }.give (.bytes (romFrameBytes (romFrame s.rom k)))) := by
  simp [machineStep, hi, exec, execRomRead, presentFrame_eq]

/-- One more step of a run. -/
theorem run_succ {n : Nat} {s t : State} (h : step s = .next t) :
    Sys2Proof.core.run (n + 1) s = Sys2Proof.core.run n t :=
  run_succ_of Sys2Proof.core h

/-- Everything the beginning of a pass can do (R100, R139, R156). -/
theorem startPass_cases (w : Option Bytes) (s : State) :
    ((w = none ∨ w = some []) ∧
      s.startPass w = { s with mem := [], wlen := 0, results := [] }.emit .invalidWindow 0) ∨
    ∃ b bs, w = some (b :: bs) ∧
      s.startPass w =
        { s.freshCursor with phase := .scanning, mem := memoryLoad (b :: bs), wlen := (b :: bs).length, results := [] } := by
  rcases w with _ | _ | ⟨b, bs⟩
  · exact .inl ⟨.inl rfl, rfl⟩
  · exact .inl ⟨.inr rfl, rfl⟩
  · exact .inr ⟨b, bs, rfl, rfl⟩

end Sys2Proof.Machine
end

