-- ==== Sys2Proof/Laws/PerInstr.lean ====
section
/-! SUPPORT. Laws/PerInstr.lean: the family RowForm, one lemma per instruction: the encoding of a well-formed instruction has the form
its row of spec/opcode_table.json claims (R61), and the INTERNAL rows have no encoding. -/

namespace Sys2Proof.Laws

open Sys2Proof.Machine

/-- The `match` and `mask` of an instruction's row, byte for byte; none for the INTERNAL rows. -/
def rowPattern : Instr → Option (Bytes × Bytes)
  | .nmeaRmc _ => some ([0x24#8, 0x00#8, 0x00#8, 0x52#8, 0x4D#8, 0x43#8], [0xFF#8, 0x00#8, 0x00#8, 0xFF#8, 0xFF#8, 0xFF#8])
  | .nmeaGga _ => some ([0x24#8, 0x00#8, 0x00#8, 0x47#8, 0x47#8, 0x41#8], [0xFF#8, 0x00#8, 0x00#8, 0xFF#8, 0xFF#8, 0xFF#8])
  | .nmeaOther _ => some ([0x24#8], [0xFF#8])
  | .ubxAck _ _ => some ([0xB5#8, 0x62#8, 0x05#8, 0x01#8, 0x02#8, 0x00#8], [0xFF#8, 0xFF#8, 0xFF#8, 0xFF#8, 0xFF#8, 0xFF#8])
  | .ubxNak _ _ => some ([0xB5#8, 0x62#8, 0x05#8, 0x00#8, 0x02#8, 0x00#8], [0xFF#8, 0xFF#8, 0xFF#8, 0xFF#8, 0xFF#8, 0xFF#8])
  | .ubxFrame _ _ _ => some ([0xB5#8, 0x62#8], [0xFF#8, 0xFF#8])
  | .skip _ => some ([0x00#8], [0x00#8])
  | .cmdDisableGll => some ([0xB5#8, 0x62#8, 0x06#8, 0x01#8, 0x03#8, 0x00#8, 0xF0#8, 0x01#8, 0x00#8, 0xFB#8, 0x11#8], [0xFF#8, 0xFF#8, 0xFF#8, 0xFF#8, 0xFF#8, 0xFF#8, 0xFF#8, 0xFF#8, 0xFF#8, 0xFF#8, 0xFF#8])
  | .cmdDisableVtg => some ([0xB5#8, 0x62#8, 0x06#8, 0x01#8, 0x03#8, 0x00#8, 0xF0#8, 0x05#8, 0x00#8, 0xFF#8, 0x19#8], [0xFF#8, 0xFF#8, 0xFF#8, 0xFF#8, 0xFF#8, 0xFF#8, 0xFF#8, 0xFF#8, 0xFF#8, 0xFF#8, 0xFF#8])
  | .cmdDisableGsv => some ([0xB5#8, 0x62#8, 0x06#8, 0x01#8, 0x03#8, 0x00#8, 0xF0#8, 0x03#8, 0x00#8, 0xFD#8, 0x15#8], [0xFF#8, 0xFF#8, 0xFF#8, 0xFF#8, 0xFF#8, 0xFF#8, 0xFF#8, 0xFF#8, 0xFF#8, 0xFF#8, 0xFF#8])
  | .cmdDisableGsa => some ([0xB5#8, 0x62#8, 0x06#8, 0x01#8, 0x03#8, 0x00#8, 0xF0#8, 0x02#8, 0x00#8, 0xFC#8, 0x13#8], [0xFF#8, 0xFF#8, 0xFF#8, 0xFF#8, 0xFF#8, 0xFF#8, 0xFF#8, 0xFF#8, 0xFF#8, 0xFF#8, 0xFF#8])
  | .cmdSetNavmode => some ([0xB5#8, 0x62#8], [0xFF#8, 0xFF#8])
  | .cmdSetLed => some ([0xB5#8, 0x62#8], [0xFF#8, 0xFF#8])
  | .cmdPollStop => some ([0xB5#8, 0x62#8], [0xFF#8, 0xFF#8])
  | .nmeaXor _ => none
  | .hex2Enc _ => none
  | .hex2Dec _ _ => none
  | .ubxCk _ => none
  | .ubxCkValid _ _ _ => none
  | .nmeaDecode _ => none
  | .nmeaFrame _ => none
  | .nmeaCkcheck _ _ _ => none
  | .nmeaTokenize _ _ => none
  | .nmeaAddr _ _ => none
  | .parseUint _ => none
  | .parseDec _ => none
  | .parseAngle _ _ => none
  | .parseTime _ => none
  | .parseHemiNs _ => none
  | .parseHemiEw _ => none
  | .parseStatus _ => none
  | .ubxDecode _ => none
  | .scan _ => none
  | .step => none
  | .flush => none
  | .nmeaSpan => none
  | .nmeaIncomplete => none
  | .nmeaOverlong => none
  | .nmeaDispatch => none
  | .ubxSpan => none
  | .ubxIncomplete => none
  | .ubxAccept _ => none
  | .ubxReject _ => none
  | .scanEnd => none
  | .build _ _ _ => none
  | .romRead _ => none

/-- `(bytes and mask) = match` over the leading bytes (R61). -/
def rowMatches (p : Bytes × Bytes) (bs : Bytes) : Bool :=
  decide (p.1.length ≤ bs.length) && (bs.zipWith (· &&& ·) p.2) == p.1

/-- A row with a pattern has an encoding that matches it; a row without one has no encoding (R61). -/
def rowFits : Option (Bytes × Bytes) → Option Bytes → Bool
  | none, none => true
  | some p, some bs => rowMatches p bs
  | some _, none => false
  | none, some _ => false

/-- A well-formed instruction is written in the form of its row, and only if its row has one. -/
def RowForm.Statement (i : Instr) : Prop :=
  ∀ maxlen : Nat, i.wellFormed maxlen = true → rowFits (rowPattern i) (encode i) = true

theorem joinFields_front {f : Bytes} {fs : List Bytes} : ∃ rest, joinFields (f :: fs) = f ++ rest := by
  cases fs with
  | nil => exact ⟨[], by simp [joinFields]⟩
  | cons g gs => exact ⟨_, rfl⟩

/-- The first six bytes of a sentence whose address field selects a layout. -/
theorem sentenceSpan_front {t : SentenceText} {ty : Bytes} (h : addrType (addressField t.fields) = some ty) :
    ∃ (a b : Byte) (rest : Bytes), sentenceSpan t = chDollar :: a :: b :: (ty ++ rest) := by
  rcases hf : t.fields with _ | ⟨f, fs⟩
  · rw [hf] at h; simp [addressField, addrType, nmeaAddr] at h
  · rw [hf] at h
    change (nmeaAddr f).map (·.2) = some ty at h
    unfold nmeaAddr at h
    by_cases hl : f.length = 5
    · rw [if_pos hl] at h
      simp only [Option.map_some, Option.some.injEq] at h
      obtain ⟨a, b, c, d, e, rfl⟩ : ∃ a b c d e, f = [a, b, c, d, e] := by
        match f, hl with
        | [a, b, c, d, e], _ => exact ⟨a, b, c, d, e, rfl⟩
      obtain ⟨rest, hr⟩ := joinFields_front (f := [a, b, c, d, e]) (fs := fs)
      refine ⟨a, b, rest ++ [chStar, t.hex1, t.hex2] ++ (if t.cr then [chCR] else []) ++ [chLF], ?_⟩
      rw [← h]
      simp [sentenceSpan, hf, hr, slice]
    · rw [if_neg hl] at h; cases h

theorem masked_true (b : Byte) : b &&& 0xFF#8 = b := by
  apply BitVec.eq_of_getLsbD_eq; intro i hi; revert i; decide +revert

/-- Every frame starts with the sync word. -/
theorem build_front (cls id : Byte) (P : Bytes) : ∃ rest, build cls id P = sync1 :: sync2 :: rest := ⟨_, rfl⟩

/-- NMEA.RMC. -/
theorem RowForm.nmeaRmc : ∀ a0, RowForm.Statement (.nmeaRmc a0) := by
  intro a0 maxlen hw
  simp only [Instr.wellFormed, textWellFormed, Bool.and_eq_true, beq_iff_eq] at hw
  obtain ⟨a, b, rest, hs⟩ := sentenceSpan_front hw.1.2
  simp [rowFits, rowPattern, encode, hs, rowMatches, typeRmc, masked_true, chDollar]

/-- NMEA.GGA. -/
theorem RowForm.nmeaGga : ∀ a0, RowForm.Statement (.nmeaGga a0) := by
  intro a0 maxlen hw
  simp only [Instr.wellFormed, textWellFormed, Bool.and_eq_true, beq_iff_eq] at hw
  obtain ⟨a, b, rest, hs⟩ := sentenceSpan_front hw.1.2
  simp [rowFits, rowPattern, encode, hs, rowMatches, typeGga, masked_true, chDollar]

/-- NMEA.OTHER. -/
theorem RowForm.nmeaOther : ∀ a0, RowForm.Statement (.nmeaOther a0) := by
  intro a0 maxlen hw
  simp only [Instr.wellFormed, spanWellFormed, Bool.and_eq_true, beq_iff_eq] at hw
  rcases a0 with _ | ⟨b, rest⟩
  · exact absurd hw.1.1.1 (by simp)
  · simp only [List.head?_cons, Option.some.injEq] at hw
    simp [rowFits, rowPattern, encode, rowMatches, hw.1.1.1, masked_true, chDollar]

/-- UBX.ACK. -/
theorem RowForm.ubxAck : ∀ a0 a1, RowForm.Statement (.ubxAck a0 a1) := by
  intro a0 a1 maxlen _
  simp [rowFits, rowPattern, encode, rowMatches, build, ubxBody, masked_true, sync1, sync2, clsAck, idAck]

/-- UBX.NAK. -/
theorem RowForm.ubxNak : ∀ a0 a1, RowForm.Statement (.ubxNak a0 a1) := by
  intro a0 a1 maxlen _
  simp [rowFits, rowPattern, encode, rowMatches, build, ubxBody, masked_true, sync1, sync2, clsAck, idNak]

/-- UBX.FRAME. -/
theorem RowForm.ubxFrame : ∀ a0 a1 a2, RowForm.Statement (.ubxFrame a0 a1 a2) := by
  intro a0 a1 a2 maxlen _
  obtain ⟨rest, hr⟩ := build_front a0 a1 a2
  simp [rowFits, rowPattern, encode, rowMatches, hr, masked_true, sync1, sync2]

/-- SKIP. -/
theorem RowForm.skip : ∀ a0, RowForm.Statement (.skip a0) := by
  intro a0 maxlen _
  simp [rowFits, rowPattern, encode, rowMatches]

/-- CMD.DISABLE_GLL. -/
theorem RowForm.cmdDisableGll : RowForm.Statement (.cmdDisableGll) :=
  fun _ _ => by decide

/-- CMD.DISABLE_VTG. -/
theorem RowForm.cmdDisableVtg : RowForm.Statement (.cmdDisableVtg) :=
  fun _ _ => by decide

/-- CMD.DISABLE_GSV. -/
theorem RowForm.cmdDisableGsv : RowForm.Statement (.cmdDisableGsv) :=
  fun _ _ => by decide

/-- CMD.DISABLE_GSA. -/
theorem RowForm.cmdDisableGsa : RowForm.Statement (.cmdDisableGsa) :=
  fun _ _ => by decide

/-- CMD.SET_NAVMODE. -/
theorem RowForm.cmdSetNavmode : RowForm.Statement (.cmdSetNavmode) := by
  intro maxlen _
  obtain ⟨rest, hr⟩ := build_front (Config.openCls .navMode) (Config.openId .navMode) (Config.openPayload .navMode)
  simp [rowFits, rowPattern, encode, rowMatches, romFrameBytes, frameSetNavmode, hr, masked_true, sync1, sync2]

/-- CMD.SET_LED. -/
theorem RowForm.cmdSetLed : RowForm.Statement (.cmdSetLed) := by
  intro maxlen _
  obtain ⟨rest, hr⟩ := build_front (Config.openCls .led) (Config.openId .led) (Config.openPayload .led)
  simp [rowFits, rowPattern, encode, rowMatches, romFrameBytes, frameSetLed, hr, masked_true, sync1, sync2]

/-- CMD.POLL_STOP. -/
theorem RowForm.cmdPollStop : RowForm.Statement (.cmdPollStop) := by
  intro maxlen _
  obtain ⟨rest, hr⟩ := build_front (Config.openCls .pollStop) (Config.openId .pollStop) (Config.openPayload .pollStop)
  simp [rowFits, rowPattern, encode, rowMatches, romFrameBytes, framePollStop, hr, masked_true, sync1, sync2]

/-- NMEA_XOR. -/
theorem RowForm.nmeaXor : ∀ a0, RowForm.Statement (.nmeaXor a0) :=
  fun _ _ _ => rfl

/-- HEX2ENC. -/
theorem RowForm.hex2Enc : ∀ a0, RowForm.Statement (.hex2Enc a0) :=
  fun _ _ _ => rfl

/-- HEX2DEC. -/
theorem RowForm.hex2Dec : ∀ a0 a1, RowForm.Statement (.hex2Dec a0 a1) :=
  fun _ _ _ _ => rfl

/-- UBX_CK. -/
theorem RowForm.ubxCk : ∀ a0, RowForm.Statement (.ubxCk a0) :=
  fun _ _ _ => rfl

/-- UBX_CK_VALID. -/
theorem RowForm.ubxCkValid : ∀ a0 a1 a2, RowForm.Statement (.ubxCkValid a0 a1 a2) :=
  fun _ _ _ _ _ => rfl

/-- NMEA_DECODE. -/
theorem RowForm.nmeaDecode : ∀ a0, RowForm.Statement (.nmeaDecode a0) :=
  fun _ _ _ => rfl

/-- NMEA_FRAME. -/
theorem RowForm.nmeaFrame : ∀ a0, RowForm.Statement (.nmeaFrame a0) :=
  fun _ _ _ => rfl

/-- NMEA_CKCHECK. -/
theorem RowForm.nmeaCkcheck : ∀ a0 a1 a2, RowForm.Statement (.nmeaCkcheck a0 a1 a2) :=
  fun _ _ _ _ _ => rfl

/-- NMEA_TOKENIZE. -/
theorem RowForm.nmeaTokenize : ∀ a0 a1, RowForm.Statement (.nmeaTokenize a0 a1) :=
  fun _ _ _ _ => rfl

/-- NMEA_ADDR. -/
theorem RowForm.nmeaAddr : ∀ a0 a1, RowForm.Statement (.nmeaAddr a0 a1) :=
  fun _ _ _ _ => rfl

/-- PARSE_UINT. -/
theorem RowForm.parseUint : ∀ a0, RowForm.Statement (.parseUint a0) :=
  fun _ _ _ => rfl

/-- PARSE_DEC. -/
theorem RowForm.parseDec : ∀ a0, RowForm.Statement (.parseDec a0) :=
  fun _ _ _ => rfl

/-- PARSE_ANGLE. -/
theorem RowForm.parseAngle : ∀ a0 a1, RowForm.Statement (.parseAngle a0 a1) :=
  fun _ _ _ _ => rfl

/-- PARSE_TIME. -/
theorem RowForm.parseTime : ∀ a0, RowForm.Statement (.parseTime a0) :=
  fun _ _ _ => rfl

/-- PARSE_HEMI_NS. -/
theorem RowForm.parseHemiNs : ∀ a0, RowForm.Statement (.parseHemiNs a0) :=
  fun _ _ _ => rfl

/-- PARSE_HEMI_EW. -/
theorem RowForm.parseHemiEw : ∀ a0, RowForm.Statement (.parseHemiEw a0) :=
  fun _ _ _ => rfl

/-- PARSE_STATUS. -/
theorem RowForm.parseStatus : ∀ a0, RowForm.Statement (.parseStatus a0) :=
  fun _ _ _ => rfl

/-- UBX_DECODE. -/
theorem RowForm.ubxDecode : ∀ a0, RowForm.Statement (.ubxDecode a0) :=
  fun _ _ _ => rfl

/-- SCAN. -/
theorem RowForm.scan : ∀ a0, RowForm.Statement (.scan a0) :=
  fun _ _ _ => rfl

/-- STEP. -/
theorem RowForm.step : RowForm.Statement (.step) :=
  fun _ _ => rfl

/-- FLUSH. -/
theorem RowForm.flush : RowForm.Statement (.flush) :=
  fun _ _ => rfl

/-- NMEA_SPAN. -/
theorem RowForm.nmeaSpan : RowForm.Statement (.nmeaSpan) :=
  fun _ _ => rfl

/-- NMEA_INCOMPLETE. -/
theorem RowForm.nmeaIncomplete : RowForm.Statement (.nmeaIncomplete) :=
  fun _ _ => rfl

/-- NMEA_OVERLONG. -/
theorem RowForm.nmeaOverlong : RowForm.Statement (.nmeaOverlong) :=
  fun _ _ => rfl

/-- NMEA_DISPATCH. -/
theorem RowForm.nmeaDispatch : RowForm.Statement (.nmeaDispatch) :=
  fun _ _ => rfl

/-- UBX_SPAN. -/
theorem RowForm.ubxSpan : RowForm.Statement (.ubxSpan) :=
  fun _ _ => rfl

/-- UBX_INCOMPLETE. -/
theorem RowForm.ubxIncomplete : RowForm.Statement (.ubxIncomplete) :=
  fun _ _ => rfl

/-- UBX_ACCEPT. -/
theorem RowForm.ubxAccept : ∀ a0, RowForm.Statement (.ubxAccept a0) :=
  fun _ _ _ => rfl

/-- UBX_REJECT. -/
theorem RowForm.ubxReject : ∀ a0, RowForm.Statement (.ubxReject a0) :=
  fun _ _ _ => rfl

/-- SCAN_END. -/
theorem RowForm.scanEnd : RowForm.Statement (.scanEnd) :=
  fun _ _ => rfl

/-- BUILD. -/
theorem RowForm.build : ∀ a0 a1 a2, RowForm.Statement (.build a0 a1 a2) :=
  fun _ _ _ _ _ => rfl

/-- ROM_READ. -/
theorem RowForm.romRead : ∀ a0, RowForm.Statement (.romRead a0) :=
  fun _ _ _ => rfl

end Sys2Proof.Laws
end

