-- ==== Sys2Proof/Tests/Slice0.lean ====
section
/-! SUPPORT. Tests/Slice0.lean: the model's own tests. Expected values are the worked vectors of `95_test_vectors.md`, named in each
docstring, or a hand calculation from the rule; none is the model's own answer. Three parts: well-formedness and decoding, one small
step per instruction, and a witness for the hypotheses of each statement. -/

namespace Sys2Proof.Tests

open Sys2Proof Sys2Proof.Machine

/-! ### Helpers -/

/-- A running pass at offset `off` of the window `w`. -/
def passAt (w : Bytes) (off : Nat) : State := { State.reset.placeWindow w with off := off }

/-- The next state, if there is one. -/
def nextOf : Out → Option State
  | .next t => some t
  | .fault _ => none
  | .refused _ => none

/-- The results of the next state. -/
def resultsOf (o : Out) : Option (List Result) := (nextOf o).map (·.results)

/-- The value the next state holds for the caller. -/
def retOf (o : Out) : Option Ret := (nextOf o).map (·.ret)

/-- NM20: an RMC sentence, southern and western, 63 bytes. -/
def rmcBytes : Bytes :=
  [0x24#8, 0x47#8, 0x50#8, 0x52#8, 0x4D#8, 0x43#8, 0x2C#8, 0x32#8, 0x33#8, 0x35#8, 0x39#8, 0x35#8, 0x39#8,
    0x2E#8, 0x39#8, 0x39#8, 0x2C#8, 0x41#8, 0x2C#8, 0x33#8, 0x33#8, 0x35#8, 0x30#8, 0x2E#8, 0x31#8, 0x32#8,
    0x33#8, 0x34#8, 0x2C#8, 0x53#8, 0x2C#8, 0x31#8, 0x35#8, 0x31#8, 0x31#8, 0x32#8, 0x2E#8, 0x35#8, 0x36#8,
    0x37#8, 0x38#8, 0x2C#8, 0x57#8, 0x2C#8, 0x30#8, 0x2E#8, 0x30#8, 0x2C#8, 0x30#8, 0x2E#8, 0x30#8, 0x2C#8,
    0x30#8, 0x31#8, 0x30#8, 0x31#8, 0x30#8, 0x30#8, 0x2A#8, 0x33#8, 0x36#8, 0x0D#8, 0x0A#8]

/-- NM35: a GGA sentence of quality 0, 59 bytes. -/
def ggaBytes : Bytes :=
  [0x24#8, 0x47#8, 0x50#8, 0x47#8, 0x47#8, 0x41#8, 0x2C#8, 0x31#8, 0x31#8, 0x31#8, 0x38#8, 0x31#8, 0x32#8,
    0x2E#8, 0x30#8, 0x30#8, 0x2C#8, 0x36#8, 0x30#8, 0x30#8, 0x31#8, 0x2E#8, 0x38#8, 0x39#8, 0x37#8, 0x30#8,
    0x36#8, 0x2C#8, 0x4E#8, 0x2C#8, 0x30#8, 0x33#8, 0x30#8, 0x32#8, 0x34#8, 0x2E#8, 0x31#8, 0x39#8, 0x38#8,
    0x35#8, 0x30#8, 0x2C#8, 0x45#8, 0x2C#8, 0x30#8, 0x2C#8, 0x30#8, 0x30#8, 0x2C#8, 0x39#8, 0x39#8, 0x2E#8,
    0x39#8, 0x39#8, 0x2A#8, 0x35#8, 0x30#8, 0x0D#8, 0x0A#8]

/-- S3, UB1: the frame of CMD.DISABLE_GLL. -/
def frameBytes : Bytes := [0xB5#8, 0x62#8, 0x06#8, 0x01#8, 0x03#8, 0x00#8, 0xF0#8, 0x01#8, 0x00#8, 0xFB#8, 0x11#8]

/-- UB14. -/
def ackBytes : Bytes := [0xB5#8, 0x62#8, 0x05#8, 0x01#8, 0x02#8, 0x00#8, 0x06#8, 0x01#8, 0x0F#8, 0x38#8]

/-- UB15. -/
def nakBytes : Bytes := [0xB5#8, 0x62#8, 0x05#8, 0x00#8, 0x02#8, 0x00#8, 0x06#8, 0x24#8, 0x31#8, 0x56#8]

/-- The text of NM20. -/
def rmcText : SentenceText :=
  { fields :=
      [[0x47#8, 0x50#8, 0x52#8, 0x4D#8, 0x43#8], [0x32#8, 0x33#8, 0x35#8, 0x39#8, 0x35#8, 0x39#8, 0x2E#8, 0x39#8, 0x39#8],
       [0x41#8], [0x33#8, 0x33#8, 0x35#8, 0x30#8, 0x2E#8, 0x31#8, 0x32#8, 0x33#8, 0x34#8], [0x53#8],
       [0x31#8, 0x35#8, 0x31#8, 0x31#8, 0x32#8, 0x2E#8, 0x35#8, 0x36#8, 0x37#8, 0x38#8], [0x57#8], [0x30#8, 0x2E#8, 0x30#8],
       [0x30#8, 0x2E#8, 0x30#8], [0x30#8, 0x31#8, 0x30#8, 0x31#8, 0x30#8, 0x30#8]]
    hex1 := 0x33#8, hex2 := 0x36#8, cr := true }

/-- The text of NM35. -/
def ggaText : SentenceText :=
  { fields :=
      [[0x47#8, 0x50#8, 0x47#8, 0x47#8, 0x41#8], [0x31#8, 0x31#8, 0x31#8, 0x38#8, 0x31#8, 0x32#8, 0x2E#8, 0x30#8, 0x30#8],
       [0x36#8, 0x30#8, 0x30#8, 0x31#8, 0x2E#8, 0x38#8, 0x39#8, 0x37#8, 0x30#8, 0x36#8], [0x4E#8],
       [0x30#8, 0x33#8, 0x30#8, 0x32#8, 0x34#8, 0x2E#8, 0x31#8, 0x39#8, 0x38#8, 0x35#8, 0x30#8], [0x45#8], [0x30#8], [0x30#8, 0x30#8],
       [0x39#8, 0x39#8, 0x2E#8, 0x39#8, 0x39#8]]
    hex1 := 0x35#8, hex2 := 0x30#8, cr := true }

/-- The fix of NM20 as the spec gives it. -/
def rmcFixExpected : PositionFix :=
  { lat := -3383539 / 100000, lon := -45362839 / 300000, utc := ⟨23, 59, 5999 / 100⟩, valid := true, sats := none, hdop := none }

/-- The fix of NM35 as the spec gives it. -/
def ggaFixExpected : PositionFix :=
  { lat := 180094853 / 3000000, lon := 3648397 / 120000, utc := ⟨11, 18, 12⟩, valid := false, sats := some 0
    hdop := some (9999 / 100) }

/-! ### Well-formedness: each check refuses an ill-formed term -/

theorem test_wf_rmc : (Instr.nmeaRmc rmcText).wellFormed 63 = true := by decide
theorem test_wf_refuses_long_sentence : (Instr.nmeaRmc rmcText).wellFormed 62 = false := by decide
theorem test_wf_refuses_wrong_type : (Instr.nmeaGga rmcText).wellFormed 82 = false := by decide
theorem test_wf_refuses_wrong_checksum : (Instr.nmeaRmc { rmcText with hex2 := 0x37#8 }).wellFormed 82 = false := by
  decide
theorem test_wf_refuses_bad_digit : (Instr.nmeaGga { ggaText with hex1 := 0x47#8 }).wellFormed 82 = false := by decide
theorem test_wf_refuses_comma_in_field :
    (Instr.nmeaRmc { rmcText with fields := [[0x47#8, 0x50#8, 0x52#8, 0x4D#8, 0x43#8], [0x2C#8]] }).wellFormed 82 = false := by
  decide
theorem test_wf_refuses_star_in_field : fieldByte 0x2A#8 = false := by decide
theorem test_wf_refuses_newline_in_field : fieldByte 0x0A#8 = false := by decide
theorem test_wf_refuses_short_address :
    (Instr.nmeaRmc { rmcText with fields := [[0x52#8, 0x4D#8, 0x43#8]] }).wellFormed 82 = false := by decide
theorem test_wf_refuses_span_without_dollar : (Instr.nmeaOther [0x2A#8, 0x0A#8]).wellFormed 82 = false := by decide
theorem test_wf_refuses_span_without_newline : (Instr.nmeaOther [0x24#8, 0x2A#8]).wellFormed 82 = false := by decide
theorem test_wf_refuses_span_past_newline : (Instr.nmeaOther [0x24#8, 0x0A#8, 0x0A#8]).wellFormed 82 = false := by decide
theorem test_wf_refuses_long_span : (Instr.nmeaOther [0x24#8, 0x41#8, 0x0A#8]).wellFormed 2 = false := by decide
theorem test_wf_refuses_other_that_is_rmc : (Instr.nmeaOther rmcBytes).wellFormed 82 = false := by decide
theorem test_wf_refuses_frame_that_is_ack : (Instr.ubxFrame 0x05#8 0x01#8 [0x06#8, 0x01#8]).wellFormed 82 = false := by decide
theorem test_wf_refuses_frame_that_is_nak : (Instr.ubxFrame 0x05#8 0x00#8 [0x06#8, 0x01#8]).wellFormed 82 = false := by decide
theorem test_wf_refuses_long_payload (cls id : Byte) (P : Bytes) (h : P.length = 65536) :
    (Instr.ubxFrame cls id P).wellFormed 82 = false := by
  simp [Instr.wellFormed, messageWellFormed, messageLen, messageParts, h]
theorem test_wf_refuses_long_build (cls id : Byte) (P : Bytes) (h : P.length = 65536) :
    (Instr.build cls id P).wellFormed 82 = false := by simp [Instr.wellFormed, h]
theorem test_wf_refuses_skip_of_dollar : (Instr.skip 0x24#8).wellFormed 82 = false := by decide
theorem test_wf_refuses_angle_width : (Instr.parseAngle [] 4).wellFormed 82 = false := by decide
theorem test_wf_refuses_star_index : (Instr.nmeaCkcheck [0x24#8] 2 0x00#8).wellFormed 82 = false := by decide
theorem test_wf_refuses_star_at_zero : (Instr.nmeaTokenize [0x24#8] 0).wellFormed 82 = false := by decide
theorem test_wf_refuses_slice_without_sync : (Instr.ubxDecode (List.replicate 8 0x00#8)).wellFormed 82 = false := by decide
theorem test_wf_refuses_accept_of_ack_frame : (Instr.ubxAccept (.frame 0x05#8 0x01#8 [0x00#8, 0x00#8])).wellFormed 82 = false := by
  decide

/-! ### Decoding: words written out from the formats of `30_encoding.md` -/

/-- R46, R49, R82 (NM20). -/
theorem test_decode_rmc : decode 82 rmcBytes = .ok (.nmeaRmc rmcText) := by decide
/-- R46, R49, R83 (NM35). -/
theorem test_decode_gga : decode 82 ggaBytes = .ok (.nmeaGga ggaText) := by decide
/-- R46 with a bare newline, R75 (NM9); one byte more than the item is left alone. -/
theorem test_decode_other :
    decode 82 [0x24#8, 0x2A#8, 0x30#8, 0x30#8, 0x0A#8, 0x41#8] = .ok (.nmeaOther [0x24#8, 0x2A#8, 0x30#8, 0x30#8, 0x0A#8]) := by
  decide
/-- R54, R55, R91 (UB14). -/
theorem test_decode_ack : decode 82 ackBytes = .ok (.ubxAck 0x06#8 0x01#8) := by decide
/-- R54, R55, R92 (UB15). -/
theorem test_decode_nak : decode 82 nakBytes = .ok (.ubxNak 0x06#8 0x24#8) := by decide
/-- R54, R93 (S3): the bytes of CMD.DISABLE_GLL on the wire are a UBX frame. -/
theorem test_decode_frame : decode 82 frameBytes = .ok (.ubxFrame 0x06#8 0x01#8 [0xF0#8, 0x01#8, 0x00#8]) := by decide
/-- UB16: class and id of an Ack, but three payload bytes. -/
theorem test_decode_frame_of_length_3 :
    decode 82 [0xB5#8, 0x62#8, 0x05#8, 0x01#8, 0x03#8, 0x00#8, 0x06#8, 0x01#8, 0x00#8, 0x10#8, 0x4C#8]
      = .ok (.ubxFrame 0x05#8 0x01#8 [0x06#8, 0x01#8, 0x00#8]) := by decide
/-- R101: `B5` without `62` behind it. -/
theorem test_decode_skip : decode 82 [0xB5#8, 0x78#8] = .ok (.skip 0xB5#8) := by decide
/-- R103, R104: no newline in the window. -/
theorem test_decode_incomplete_sentence : decode 82 [0x24#8, 0x47#8] = .ok .nmeaIncomplete := by decide
/-- R103, R105: no newline within MAXLEN = 2, and a third byte. -/
theorem test_decode_overlong_sentence : decode 2 [0x24#8, 0x47#8, 0x0A#8] = .ok .nmeaOverlong := by decide
/-- R107, R108. -/
theorem test_decode_incomplete_frame : decode 82 (frameBytes.take 5) = .ok .ubxIncomplete := by decide
/-- S4. -/
theorem test_decode_truncated_frame : decode 82 (frameBytes.take 6) = .ok (.ubxReject .truncatedFrame) := by decide
/-- UB10: one payload bit changed. -/
theorem test_decode_corrupt_frame :
    decode 82 (frameBytes.set 8 0x01#8) = .ok (.ubxReject .checksumMismatch) := by decide
theorem test_decode_nothing : decode 82 [] = .error .noByte := by decide
/-- B1 to B4: the frames of the ROM are the bytes of the table's rows. -/
theorem test_encode_commands :
    encode .cmdDisableGll = some frameBytes ∧
    encode .cmdDisableVtg = some [0xB5#8, 0x62#8, 0x06#8, 0x01#8, 0x03#8, 0x00#8, 0xF0#8, 0x05#8, 0x00#8, 0xFF#8, 0x19#8] ∧
    encode .cmdDisableGsv = some [0xB5#8, 0x62#8, 0x06#8, 0x01#8, 0x03#8, 0x00#8, 0xF0#8, 0x03#8, 0x00#8, 0xFD#8, 0x15#8] ∧
    encode .cmdDisableGsa = some [0xB5#8, 0x62#8, 0x06#8, 0x01#8, 0x03#8, 0x00#8, 0xF0#8, 0x02#8, 0x00#8, 0xFC#8, 0x13#8] := by
  decide
/-- The encoder writes the sentence of NM20 and the frames of UB14 and UB15 back. -/
theorem test_encode_wire :
    encode (.nmeaRmc rmcText) = some rmcBytes ∧ encode (.nmeaGga ggaText) = some ggaBytes ∧
    encode (.ubxAck 0x06#8 0x01#8) = some ackBytes ∧ encode (.ubxNak 0x06#8 0x24#8) = some nakBytes := by decide

/-- The table's word of CMD.DISABLE_GLL, byte 0 in the lowest bits (R61). -/
theorem test_table_word : decodeTableWord 88 0x11FB0001F00003010662B5 = some (.ubxFrame 0x06#8 0x01#8 [0xF0#8, 0x01#8, 0x00#8]) := by
  decide
/-- The word `B5 62` with zeros above it is the frame of UB6: class 0, id 0, no payload, checksum 0. -/
theorem test_table_word_sync : decodeTableWord 16 0x62B5 = some (.ubxFrame 0x00#8 0x00#8 []) := by decide
/-- The step fetches and runs the placed instruction: UB14's frame gives its Ack, and the pass is over. -/
theorem test_fetch_word :
    resultsOf (step (State.reset.withFetchWord 80 0x380F01060002010562B5)) = some [⟨.ack 0x06#8 0x01#8, 10⟩] := by decide

/-! ### One small step per instruction -/

/-- NM20. -/
theorem test_rmc : resultsOf (exec (.nmeaRmc rmcText) (passAt rmcBytes 0)) = some [⟨.positionFix rmcFixExpected, 63⟩] := by
  decide +kernel
/-- NM24: the fields are missing. -/
theorem test_rmc_field_missing :
    resultsOf (exec (.nmeaRmc { rmcText with fields := rmcText.fields.take 1 }) (passAt rmcBytes 0))
      = some [⟨.fieldFormatError 1, 11⟩] := by decide
/-- NM35. -/
theorem test_gga : resultsOf (exec (.nmeaGga ggaText) (passAt ggaBytes 0)) = some [⟨.positionFix ggaFixExpected, 59⟩] := by
  decide +kernel
/-- R83: hdop, field 8, is missing. -/
theorem test_gga_hdop_missing :
    resultsOf (exec (.nmeaGga { ggaText with fields := ggaText.fields.take 8 }) (passAt ggaBytes 0))
      = some [⟨.fieldFormatError 8, 53⟩] := by decide
/-- NM9. -/
theorem test_other :
    resultsOf (exec (.nmeaOther [0x24#8, 0x2A#8, 0x30#8, 0x30#8, 0x0A#8]) (passAt [0x24#8, 0x2A#8, 0x30#8, 0x30#8, 0x0A#8] 0))
      = some [⟨.unsupportedSentenceType [], 5⟩] := by decide
/-- R75: the digits say 01, the empty body XORs to 00. -/
theorem test_other_checksum :
    resultsOf (exec (.nmeaOther [0x24#8, 0x2A#8, 0x30#8, 0x31#8, 0x0A#8]) (passAt [0x24#8, 0x2A#8, 0x30#8, 0x31#8, 0x0A#8] 0))
      = some [⟨.checksumMismatch .nmea, 5⟩] := by decide
/-- UB14. -/
theorem test_ack : resultsOf (exec (.ubxAck 0x06#8 0x01#8) (passAt ackBytes 0)) = some [⟨.ack 0x06#8 0x01#8, 10⟩] := by
  decide
/-- UB15. -/
theorem test_nak : resultsOf (exec (.ubxNak 0x06#8 0x24#8) (passAt nakBytes 0)) = some [⟨.nak 0x06#8 0x24#8, 10⟩] := by
  decide
/-- UB1. -/
theorem test_frame :
    resultsOf (exec (.ubxFrame 0x06#8 0x01#8 [0xF0#8, 0x01#8, 0x00#8]) (passAt frameBytes 0))
      = some [⟨.ubxFrame 0x06#8 0x01#8 0x0003#16 [0xF0#8, 0x01#8, 0x00#8], 11⟩] := by decide
/-- R101. -/
theorem test_skip :
    (nextOf (exec (.skip 0x41#8) (passAt [0x41#8, 0x42#8] 0))).map (fun t => (t.skip, t.off, t.results)) = some (1, 1, []) := by
  decide
/-- B1 to B4 (R121 to R124). -/
theorem test_cmd_disable_gll : retOf (exec .cmdDisableGll State.reset) = some (.bytes frameBytes) := by decide
theorem test_cmd_disable_vtg :
    retOf (exec .cmdDisableVtg State.reset) = some (.bytes [0xB5#8, 0x62#8, 0x06#8, 0x01#8, 0x03#8, 0x00#8, 0xF0#8, 0x05#8, 0x00#8, 0xFF#8, 0x19#8]) := by
  decide
theorem test_cmd_disable_gsv :
    retOf (exec .cmdDisableGsv State.reset) = some (.bytes [0xB5#8, 0x62#8, 0x06#8, 0x01#8, 0x03#8, 0x00#8, 0xF0#8, 0x03#8, 0x00#8, 0xFD#8, 0x15#8]) := by
  decide
theorem test_cmd_disable_gsa :
    retOf (exec .cmdDisableGsa State.reset) = some (.bytes [0xB5#8, 0x62#8, 0x06#8, 0x01#8, 0x03#8, 0x00#8, 0xF0#8, 0x02#8, 0x00#8, 0xFC#8, 0x13#8]) := by
  decide
/-- R125 to R127: whatever the open parameters are, the frame starts with the sync word. -/
theorem test_cmd_open_frames :
    (∃ r, retOf (exec .cmdSetNavmode State.reset) = some (.bytes (0xB5#8 :: 0x62#8 :: r))) ∧
    (∃ r, retOf (exec .cmdSetLed State.reset) = some (.bytes (0xB5#8 :: 0x62#8 :: r))) ∧
    (∃ r, retOf (exec .cmdPollStop State.reset) = some (.bytes (0xB5#8 :: 0x62#8 :: r))) :=
  ⟨⟨_, rfl⟩, ⟨_, rfl⟩, ⟨_, rfl⟩⟩
/-- R62 by hand: 47 xor 50 xor 17 = 00. -/
theorem test_nmea_xor : retOf (exec (.nmeaXor [0x47#8, 0x50#8, 0x17#8]) State.reset) = some (.byte 0x00#8) := by decide
/-- R63: upper case, high digit first. -/
theorem test_hex2_enc : retOf (exec (.hex2Enc 0x6A#8) State.reset) = some (.digits 0x36#8 0x41#8) := by decide
/-- R64: lower case is read. -/
theorem test_hex2_dec : retOf (exec (.hex2Dec 0x36#8 0x61#8) State.reset) = some (.byte 0x6A#8) := by decide
/-- NM4: `6G`. -/
theorem test_hex2_dec_invalid : retOf (exec (.hex2Dec 0x36#8 0x47#8) State.reset) = some .invalid := by decide
/-- S3: (FB, 11). -/
theorem test_ubx_ck :
    retOf (exec (.ubxCk [0x06#8, 0x01#8, 0x03#8, 0x00#8, 0xF0#8, 0x01#8, 0x00#8]) State.reset) = some (.sums 0xFB#8 0x11#8) := by
  decide
/-- UB11: one of the two bytes is not enough. -/
theorem test_ubx_ck_valid :
    retOf (exec (.ubxCkValid [0x06#8, 0x01#8, 0x03#8, 0x00#8, 0xF0#8, 0x01#8, 0x00#8] 0xFB#8 0x10#8) State.reset)
      = some (.truth false) := by decide
/-- NM20, decoded outside a pass. -/
theorem test_nmea_decode :
    retOf (exec (.nmeaDecode rmcBytes) State.reset) = some (.sentence (.positionFix rmcFixExpected)) := by decide +kernel
/-- NM10: the empty span. -/
theorem test_nmea_decode_empty : retOf (exec (.nmeaDecode []) State.reset) = some (.sentence .malformedSentence) := by decide
/-- R71 on NM9: the star at 1, the terminator at 4. -/
theorem test_nmea_frame :
    (nextOf (exec (.nmeaFrame [0x24#8, 0x2A#8, 0x30#8, 0x30#8, 0x0A#8]) State.reset)).map (fun t => (t.ret, t.i, t.e))
      = some (.framed 1 0x00#8, 1, 4) := by decide
/-- R72. -/
theorem test_nmea_ckcheck :
    (nextOf (exec (.nmeaCkcheck [0x24#8, 0x41#8, 0x42#8, 0x2A#8] 3 0x03#8) State.reset)).map (fun t => (t.ret, t.x))
      = some (.ckOk, 0x03#8) := by decide
/-- R73: two commas, three fields, the last empty. -/
theorem test_nmea_tokenize :
    retOf (exec (.nmeaTokenize [0x24#8, 0x41#8, 0x2C#8, 0x42#8, 0x2C#8, 0x2A#8] 5) State.reset)
      = some (.fields [[0x41#8], [0x42#8], []]) := by decide
/-- R74. -/
theorem test_nmea_addr :
    retOf (exec (.nmeaAddr [0x47#8, 0x50#8, 0x52#8, 0x4D#8, 0x43#8] []) State.reset)
      = some (.address [0x47#8, 0x50#8] [0x52#8, 0x4D#8, 0x43#8]) := by decide
/-- NM14: four bytes. -/
theorem test_nmea_addr_short :
    retOf (exec (.nmeaAddr [0x47#8, 0x50#8, 0x52#8, 0x4D#8] []) State.reset)
      = some (.sentence (.unsupportedSentenceType [0x47#8, 0x50#8, 0x52#8, 0x4D#8])) := by decide
/-- R76: `05` is 5; the empty field fails. -/
theorem test_parse_uint : retOf (exec (.parseUint [0x30#8, 0x35#8]) State.reset) = some (.natural 5) := by decide
theorem test_parse_uint_empty : retOf (exec (.parseUint []) State.reset) = some .fail := by decide
/-- R77: `5.67` is 567/100. -/
theorem test_parse_dec :
    retOf (exec (.parseDec [0x35#8, 0x2E#8, 0x36#8, 0x37#8]) State.reset)
      = some (.decimal ⟨[0x35#8], [0x36#8, 0x37#8], 567 / 100⟩) := by decide +kernel
/-- R77: a point needs a digit before it. -/
theorem test_parse_dec_no_digit : retOf (exec (.parseDec [0x2E#8, 0x35#8]) State.reset) = some .fail := by decide
/-- R78: `0130.5` is 1 degree and 30.5 minutes. -/
theorem test_parse_angle :
    retOf (exec (.parseAngle [0x30#8, 0x31#8, 0x33#8, 0x30#8, 0x2E#8, 0x35#8] 2) State.reset)
      = some (.degrees (181 / 120)) := by decide +kernel
/-- NM27: three integer digits are no latitude. -/
theorem test_parse_angle_short : retOf (exec (.parseAngle [0x36#8, 0x30#8, 0x31#8] 2) State.reset) = some .fail := by
  decide
/-- R79 (NM34): no range check. -/
theorem test_parse_time :
    retOf (exec (.parseTime [0x39#8, 0x39#8, 0x36#8, 0x31#8, 0x39#8, 0x39#8]) State.reset) = some (.time ⟨99, 61, 99⟩) := by
  decide +kernel
/-- R80. -/
theorem test_parse_hemi_ns : retOf (exec (.parseHemiNs [0x53#8]) State.reset) = some (.sign (-1)) := by decide
/-- NM29: lower case fails. -/
theorem test_parse_hemi_ns_lower : retOf (exec (.parseHemiNs [0x6E#8]) State.reset) = some .fail := by decide
/-- R80. -/
theorem test_parse_hemi_ew : retOf (exec (.parseHemiEw [0x57#8]) State.reset) = some (.sign (-1)) := by decide
/-- R80. -/
theorem test_parse_status : retOf (exec (.parseStatus [0x56#8]) State.reset) = some (.truth false) := by decide
/-- UB2: the bytes behind the frame are not read. -/
theorem test_ubx_decode :
    (nextOf (exec (.ubxDecode (frameBytes ++ [0x00#8, 0x01#8])) State.reset)).map (fun t => (t.ret, t.len, t.ckA, t.ckB))
      = some (.frame (.accepted (.frame 0x06#8 0x01#8 [0xF0#8, 0x01#8, 0x00#8])), 0x0003#16, 0xFB#8, 0x11#8) := by decide
/-- UB3: 7 bytes. -/
theorem test_ubx_decode_short :
    retOf (exec (.ubxDecode (frameBytes.take 7)) State.reset) = some (.frame (.rejected .truncatedFrame)) := by decide
/-- S4 as a whole window of 6 bytes. -/
theorem test_scan :
    resultsOf (exec (.scan (some (frameBytes.take 6))) State.reset) = some [⟨.truncatedFrame, 2⟩, ⟨.unrecognizedBytes, 4⟩] := by
  decide
/-- X3: the empty window. -/
theorem test_scan_empty : resultsOf (exec (.scan (some [])) State.reset) = some [⟨.invalidWindow, 0⟩] := by decide
/-- R101, R102: a pending run of 2 is reported before the frame. -/
theorem test_step :
    resultsOf (exec .step { passAt ([0x78#8, 0x79#8] ++ ackBytes) 2 with skip := 2 })
      = some [⟨.unrecognizedBytes, 2⟩, ⟨.ack 0x06#8 0x01#8, 10⟩] := by decide
/-- R102. -/
theorem test_flush :
    (nextOf (exec .flush { passAt [0x41#8] 0 with skip := 1 })).map (fun t => (t.results, t.skip))
      = some ([⟨.unrecognizedBytes, 1⟩], 0) := by decide
/-- R103, R106: the first newline ends the span. -/
theorem test_nmea_span :
    (nextOf (exec .nmeaSpan (passAt [0x41#8, 0x24#8, 0x0A#8, 0x0A#8] 1))).map (fun t => (t.results, t.j, t.off))
      = some ([⟨.malformedSentence, 2⟩], 2, 3) := by decide
/-- R104. -/
theorem test_nmea_incomplete :
    (nextOf (exec .nmeaIncomplete (passAt [0x41#8, 0x24#8, 0x41#8] 1))).map (fun t => (t.results, t.pm, t.off))
      = some ([⟨.incompleteAtBoundary .nmea, 2⟩], some .nmea, 3) := by decide
/-- R105. -/
theorem test_nmea_overlong :
    (nextOf (exec .nmeaOverlong (passAt [0x24#8, 0x41#8] 0))).map (fun t => (t.results, t.off))
      = some ([⟨.malformedSentence, 1⟩], 1) := by decide
/-- R106. -/
theorem test_nmea_dispatch :
    (nextOf (exec .nmeaDispatch { passAt [0x24#8, 0x2A#8, 0x30#8, 0x30#8, 0x0A#8] 0 with j := 4 })).map (fun t => (t.results, t.off))
      = some ([⟨.unsupportedSentenceType [], 5⟩], 5) := by decide
/-- R107, R109 (UB15). -/
theorem test_ubx_span : resultsOf (exec .ubxSpan (passAt nakBytes 0)) = some [⟨.nak 0x06#8 0x24#8, 10⟩] := by decide
/-- R107: five bytes of a header. -/
theorem test_ubx_span_incomplete :
    resultsOf (exec .ubxSpan (passAt (frameBytes.take 5) 0)) = some [⟨.incompleteAtBoundary .ubx, 5⟩] := by decide
/-- R108. -/
theorem test_ubx_incomplete :
    (nextOf (exec .ubxIncomplete (passAt (frameBytes.take 5) 0))).map (fun t => (t.pm, t.off)) = some (some .ubx, 5) := by
  decide
/-- R109. -/
theorem test_ubx_accept :
    (nextOf (exec (.ubxAccept (.frame 0x00#8 0x00#8 [])) (passAt (List.replicate 9 0x00#8) 1))).map (fun t => (t.results, t.off))
      = some ([⟨.ubxFrame 0x00#8 0x00#8 0x0000#16 [], 8⟩], 9) := by decide
/-- R110. -/
theorem test_ubx_reject :
    (nextOf (exec (.ubxReject .checksumMismatch) (passAt frameBytes 0))).map (fun t => (t.results, t.off))
      = some ([⟨.checksumMismatch .ubx, 2⟩], 2) := by decide
/-- R111: the pending run is reported, the block is `Idle`. -/
theorem test_scan_end :
    (nextOf (exec .scanEnd { passAt [0x41#8] 1 with skip := 1 })).map (fun t => (t.results, t.phase))
      = some ([⟨.unrecognizedBytes, 1⟩], .idle) := by decide
/-- B1. -/
theorem test_build :
    retOf (exec (.build 0x06#8 0x01#8 [0xF0#8, 0x01#8, 0x00#8]) State.reset) = some (.bytes frameBytes) := by decide
/-- R129: index 0 is CMD.DISABLE_GLL. -/
theorem test_rom_read : retOf (exec (.romRead 0) State.reset) = some (.bytes frameBytes) := by decide
/-- R139, R143: a START of the empty window. -/
theorem test_start_empty :
    (nextOf (step { State.reset with inbox := [.start (some [])] })).map (fun t => (t.phase, t.results))
      = some (.idle, [⟨.invalidWindow, 0⟩]) := by decide
/-- R155: a reset in mid-pass. -/
theorem test_reset :
    (nextOf (step { passAt frameBytes 3 with maxlen := 9, inbox := [.reset] })).map (fun t => (t.phase, t.maxlen, t.results))
      = some (.idle, 82, []) := by decide

/-! ### Witnesses: for each statement with hypotheses, states and operands that meet them, clause by clause at the boundaries -/

/-- A running pass over a window of `n` bytes with the cursor at `off`, whatever the bytes are. -/
def passOf (off n : Nat) : State := { State.reset with phase := .scanning, off := off, wlen := n }

theorem witness_DecodeOfEncodedItem :
    ((Instr.nmeaRmc rmcText).isWireItem = true ∧ (Instr.nmeaRmc rmcText).wellFormed 63 = true ∧
      encode (.nmeaRmc rmcText) = some rmcBytes ∧ ((∃ b, Instr.nmeaRmc rmcText = .skip b) → startsSync (rmcBytes ++ []) = false)) ∧
    ((Instr.skip 0xB5#8).isWireItem = true ∧ (Instr.skip 0xB5#8).wellFormed 1 = true ∧ encode (.skip 0xB5#8) = some [0xB5#8] ∧
      ((∃ b, Instr.skip 0xB5#8 = .skip b) → startsSync ([0xB5#8] ++ [0x61#8]) = false)) := by
  refine ⟨⟨rfl, by decide, by decide, fun h => ?_⟩, rfl, by decide, by decide, fun _ => by decide⟩
  obtain ⟨b, hb⟩ := h; cases hb

theorem witness_DecodedItemStandsInTheWindow :
    decode 82 ackBytes = .ok (.ubxAck 0x06#8 0x01#8) ∧ (Instr.ubxAck 0x06#8 0x01#8).isWireItem = true := by decide

/-- The empty payload, cut at 2 and 5 bytes, and at 6 and 7. -/
theorem witness_CutFrameIsIncompleteOrTruncated :
    ([] : Bytes).length ≤ 65535 ∧ (2 ≤ 2 ∧ 2 < 6) ∧ (2 ≤ 5 ∧ 5 < 6) ∧ (6 ≤ 6 ∧ 6 < 8 + ([] : Bytes).length) ∧
      (6 ≤ 7 ∧ 7 < 8 + ([] : Bytes).length) := by decide

theorem witness_LentWindowReadsBack :
    ({ State.reset with inbox := [.start (some [0x00#8])] } : State).phase = .idle ∧
    ({ State.reset with inbox := [.start (some [0x00#8])] } : State).inbox = .start (some [0x00#8]) :: [] ∧ ([0x00#8] : Bytes) ≠ [] := by
  decide

theorem witness_NoInstructionWritesTheWindow :
    (∀ w, Instr.nmeaOverlong ≠ .scan w) ∧ ∃ t, exec .nmeaOverlong (passAt [0x24#8] 0) = .next t :=
  ⟨fun _ h => by (cases h), _, rfl⟩

theorem witness_StepRunsTheDecodedItem :
    (passAt ackBytes 0).inbox = [] ∧ (passAt ackBytes 0).phase = .scanning ∧ (passAt ackBytes 0).off < (passAt ackBytes 0).wlen ∧
      decode (passAt ackBytes 0).maxlen (fetchBytes (passAt ackBytes 0)) = .ok (.ubxAck 0x06#8 0x01#8) := by decide

/-- One byte before the window's end. -/
theorem witness_StepIsTheScannerStep :
    (passAt ackBytes 9).inbox = [] ∧ (passAt ackBytes 9).phase = .scanning ∧ (passAt ackBytes 9).off < (passAt ackBytes 9).wlen := by
  decide

theorem inv_passAt_ack : Inv (passAt ackBytes 0) where
  mem := by unfold memorySound; decide
  maxlen := by decide
  rom := rfl
  accounted := by show (0 < 10 ∧ 0 = consumedSum [] + 0); decide
  sound := rfl
  separated := rfl
  pending := fun _ => rfl
  partialMatch := fun _ => rfl
  discarded := fun h => by cases h

theorem witness_EveryStepKeepsTheInvariant : Inv (passAt ackBytes 0) ∧ ∃ t, step (passAt ackBytes 0) = .next t :=
  ⟨inv_passAt_ack, _, rfl⟩

/-- A running pass, in which a write of 0 may be pending, and `Idle` with none. -/
theorem witness_EveryStepCompletes :
    (∃ s : State, Inv s ∧ s.inbox = .writeMaxlen 0 :: [] ∧ (s.phase = .idle → ∀ q, s.inbox ≠ .writeMaxlen 0 :: q)) ∧
    (State.reset.phase = .idle → ∀ q, State.reset.inbox ≠ .writeMaxlen 0 :: q) :=
  ⟨⟨{ passAt ackBytes 0 with inbox := [.writeMaxlen 0] },
      { mem := inv_passAt_ack.mem, maxlen := inv_passAt_ack.maxlen, rom := rfl, accounted := inv_passAt_ack.accounted
        sound := rfl, separated := rfl, pending := fun _ => rfl, partialMatch := fun _ => rfl, discarded := fun h => by cases h },
      rfl, fun h => by cases h⟩,
    fun _ _ h => by cases h⟩

theorem witness_StepMovesTheCursorForward : ∃ t, exec .step (passAt [0x41#8] 0) = .next t := ⟨_, rfl⟩

theorem witness_SteppingAPassIsScan : State.reset.phase = .idle ∧ State.reset.inbox = [] := by decide

theorem witness_ScanIsTheListing : State.reset.phase = .idle := rfl

theorem witness_ScanAccountsForEveryByte : State.reset.phase = .idle ∧ ∃ t, exec (.scan (some ackBytes)) State.reset = .next t :=
  ⟨rfl, _, rfl⟩

theorem witness_StartBeginsAFreshPass :
    (∃ s : State, s.phase = .idle ∧ s.inbox = .start (some [0x24#8]) :: [.wait]) ∧
    (∃ s : State, s.phase = .idle ∧ s.inbox = .start none :: [.wait]) ∧
    ∃ s : State, s.phase = .idle ∧ s.inbox = .start (some []) :: [.wait] :=
  ⟨⟨{ State.reset with inbox := [.start (some [0x24#8]), .wait] }, rfl, rfl⟩,
    ⟨{ State.reset with inbox := [.start none, .wait] }, rfl, rfl⟩, ⟨{ State.reset with inbox := [.start (some []), .wait] }, rfl, rfl⟩⟩

/-- The values 1 and 0 in `Idle`; a read of the last frame; a write of 0 and a START while a pass is running; a wait in either phase. -/
theorem witness_HostMovesTakeEffect :
    (∃ s : State, s.inbox = .writeMaxlen 1 :: [] ∧ s.phase = .idle ∧ 1 ≤ 1) ∧
    (∃ s : State, s.inbox = .writeMaxlen 0 :: [] ∧ s.phase = .idle) ∧
    (∃ s : State, s.inbox = .romRead 6 :: []) ∧
    (∃ s : State, s.inbox = .writeMaxlen 0 :: [] ∧ s.phase = .scanning) ∧
    (∃ s : State, s.inbox = .start none :: [] ∧ s.phase = .scanning) ∧
    (∃ s : State, s.inbox = .wait :: [] ∧ s.phase = .scanning) ∧
    ∃ s : State, s.inbox = .wait :: [] ∧ s.phase = .idle :=
  ⟨⟨{ State.reset with inbox := [.writeMaxlen 1] }, rfl, rfl, le_rfl⟩, ⟨{ State.reset with inbox := [.writeMaxlen 0] }, rfl, rfl⟩,
    ⟨{ State.reset with inbox := [.romRead 6] }, rfl⟩, ⟨{ passAt [0x41#8] 0 with inbox := [.writeMaxlen 0] }, rfl, rfl⟩,
    ⟨{ passAt [0x41#8] 0 with inbox := [.start none] }, rfl, rfl⟩, ⟨{ passAt [0x41#8] 0 with inbox := [.wait] }, rfl, rfl⟩,
    ⟨{ State.reset with inbox := [.wait] }, rfl, rfl⟩⟩

theorem witness_ResetAbandonsThePass : ({ passAt ackBytes 9 with inbox := [.reset] } : State).inbox = .reset :: [] := rfl

theorem witness_FlushReportsThePendingRun :
    (({ passOf 1 2 with skip := 1 } : State).phase = .scanning ∧ 0 < ({ passOf 1 2 with skip := 1 } : State).skip) ∧
    ((passOf 0 1).phase = .scanning ∧ (passOf 0 1).skip = 0) := by decide

/-- The last byte of a window as `$`, as `B5` without a next byte, as any other byte; and a sync word at its end. -/
theorem witness_StepDispatchesOnTheByte :
    (windowByte (passAt [0x24#8] 0) 0 = some 0x24#8 ∧ windowByte (passAt [0xB5#8, 0x62#8] 0) 0 = some 0xB5#8 ∧
      windowByte (passAt [0xB5#8, 0x62#8] 0) (0 + 1) = some 0x62#8) ∧
    (windowByte (passAt [0xB5#8] 0) 0 = some 0xB5#8 ∧ windowByte (passAt [0xB5#8] 0) (0 + 1) ≠ some 0x62#8 ∧
      windowByte (passAt [0x23#8] 0) 0 = some 0x23#8) ∧ (passAt [0xB5#8] 0).phase = .scanning := by decide

/-- With MAXLEN = 3: the newline at the first and at the last offset of the search; none in a window that ends at the bound, and in one
that is a byte longer. -/
theorem witness_NmeaSpanFindsTheFirstTerminator :
    (∃ s : State, s.phase = .scanning ∧ windowByte s s.off = some 0x24#8 ∧ s.off + 1 ≤ 1 ∧ 1 < min s.wlen (s.off + s.maxlen) ∧
      windowByte s 1 = some 0x0A#8 ∧ ∀ m, s.off + 1 ≤ m → m < 1 → windowByte s m ≠ some 0x0A#8) ∧
    (∃ s : State, s.phase = .scanning ∧ windowByte s s.off = some 0x24#8 ∧ s.off + 1 ≤ 2 ∧ 2 < min s.wlen (s.off + s.maxlen) ∧
      2 + 1 = min s.wlen (s.off + s.maxlen) ∧ windowByte s 2 = some 0x0A#8 ∧
      ∀ m, s.off + 1 ≤ m → m < 2 → windowByte s m ≠ some 0x0A#8) ∧
    (∃ s : State, s.phase = .scanning ∧ windowByte s s.off = some 0x24#8 ∧ s.wlen = s.off + s.maxlen ∧
      ∀ m, s.off + 1 ≤ m → m < min s.wlen (s.off + s.maxlen) → windowByte s m ≠ some 0x0A#8) ∧
    ∃ s : State, s.phase = .scanning ∧ windowByte s s.off = some 0x24#8 ∧ s.wlen = s.off + s.maxlen + 1 ∧
      ∀ m, s.off + 1 ≤ m → m < min s.wlen (s.off + s.maxlen) → windowByte s m ≠ some 0x0A#8 := by
  refine ⟨⟨{ passAt [0x24#8, 0x0A#8, 0x41#8] 0 with maxlen := 3 }, rfl, by decide, by decide, by decide, by decide, ?_⟩,
    ⟨{ passAt [0x24#8, 0x41#8, 0x0A#8] 0 with maxlen := 3 }, rfl, by decide, by decide, by decide, by decide, by decide, ?_⟩,
    ⟨{ passAt [0x24#8, 0x41#8, 0x42#8] 0 with maxlen := 3 }, rfl, by decide, rfl, ?_⟩,
    ⟨{ passAt [0x24#8, 0x41#8, 0x42#8, 0x0A#8] 0 with maxlen := 3 }, rfl, by decide, rfl, ?_⟩⟩
  · intro m h1 h2; change 0 + 1 ≤ m at h1; omega
  · intro m h1 h2; change 0 + 1 ≤ m at h1; obtain rfl : m = 1 := by omega
    decide
  · intro m h1 h2; change 0 + 1 ≤ m at h1; change m < 3 at h2
    obtain rfl | rfl : m = 1 ∨ m = 2 := by omega
    all_goals decide
  · intro m h1 h2; change 0 + 1 ≤ m at h1; change m < 3 at h2
    obtain rfl | rfl : m = 1 ∨ m = 2 := by omega
    all_goals decide

theorem witness_IncompleteItemsEndThePass :
    (passOf 0 1).phase = .scanning ∧ (passOf 0 1).off < (passOf 0 1).wlen ∧
    (Instr.nmeaIncomplete = .nmeaIncomplete ∧ Proto.nmea = .nmea ∨ Instr.nmeaIncomplete = .ubxIncomplete ∧ Proto.nmea = .ubx) ∧
    (Instr.ubxIncomplete = .nmeaIncomplete ∧ Proto.ubx = .nmea ∨ Instr.ubxIncomplete = .ubxIncomplete ∧ Proto.ubx = .ubx) := by decide

/-- The last byte, and the last two bytes, of a window. -/
theorem witness_RejectedCandidatesResumeBehindTheirStart : passWith 1 (passOf 4 5) ∧ passWith 2 (passOf 3 5) := by
  unfold passWith; decide

/-- The shortest span, `$` and `\n`, at the window's end. -/
theorem witness_NmeaDispatchConsumesTheSpan :
    ({ passOf 3 5 with j := 4 } : State).phase = .scanning ∧ ({ passOf 3 5 with j := 4 } : State).off < ({ passOf 3 5 with j := 4 } : State).j ∧
      ({ passOf 3 5 with j := 4 } : State).j < ({ passOf 3 5 with j := 4 } : State).wlen := by decide

/-- Five and six bytes of a header; an accepted and a rejected frame. -/
theorem witness_UbxSpanChecksTheHeaderFirst :
    (windowByte (passAt (frameBytes.take 5) 0) 0 = some 0xB5#8 ∧ windowByte (passAt (frameBytes.take 5) 0) (0 + 1) = some 0x62#8 ∧
      (passAt (frameBytes.take 5) 0).wlen < 0 + 6) ∧
    (windowByte (passAt (frameBytes.take 6) 0) 0 = some 0xB5#8 ∧ windowByte (passAt (frameBytes.take 6) 0) (0 + 1) = some 0x62#8 ∧
      0 + 6 ≤ (passAt (frameBytes.take 6) 0).wlen ∧ ubxDecode (fetchBytes (passAt (frameBytes.take 6) 0)) = .rejected .truncatedFrame) ∧
    (windowByte (passAt ackBytes 0) 0 = some 0xB5#8 ∧ windowByte (passAt ackBytes 0) (0 + 1) = some 0x62#8 ∧
      0 + 6 ≤ (passAt ackBytes 0).wlen ∧ ubxDecode (fetchBytes (passAt ackBytes 0)) = .accepted (.ack 0x06#8 0x01#8)) := by decide

/-- Frames that end with the window: 10 bytes, 8 bytes, and the longest. -/
theorem witness_UbxAcceptConsumesTheFrame :
    passWith 10 (passOf 1 11) ∧ (([] : Bytes).length ≤ 65535 ∧ passWith (8 + ([] : Bytes).length) (passOf 0 8)) ∧
    ∃ P : Bytes, P.length = 65535 ∧ P.length ≤ 65535 ∧ passWith (8 + P.length) (passOf 0 65543) := by
  refine ⟨⟨rfl, by decide⟩, ⟨by decide, rfl, by decide⟩, List.replicate 65535 0x00#8, ?_⟩
  rw [List.length_replicate]; exact ⟨rfl, le_rfl, rfl, le_rfl⟩

/-- At the window's end. -/
theorem witness_ScanEndReturnsToIdle : (passOf 5 5).phase = .scanning ∧ (passOf 5 5).wlen ≤ (passOf 5 5).off := by decide

theorem witness_OperationsNeedTheirPrecondition :
    (isPassOperation .flush = true ∧ State.reset.phase = .idle) ∧ (passOf 0 1).phase = .scanning ∧
    ((passAt [0x25#8] 0).off < (passAt [0x25#8] 0).wlen ∧ windowByte (passAt [0x25#8] 0) 0 ≠ some 0x24#8) ∧
    ((passAt [0xB5#8] 0).off < (passAt [0xB5#8] 0).wlen ∧
      ¬(windowByte (passAt [0xB5#8] 0) 0 = some 0xB5#8 ∧ windowByte (passAt [0xB5#8] 0) (0 + 1) = some 0x62#8)) ∧
    ({ passOf 2 5 with j := 2 } : State).j ≤ ({ passOf 2 5 with j := 2 } : State).off ∧ (passOf 4 5).off < (passOf 4 5).wlen ∧
    ∃ P : Bytes, P.length = 65536 ∧ 65535 < P.length := by
  refine ⟨by decide, by decide, by decide, by decide, by decide, by decide, List.replicate 65536 0x00#8, ?_⟩
  rw [List.length_replicate]; omega

/-- The cursor at the window's end; an item one byte too long for it; a terminator at the window's end. -/
theorem witness_NothingStandsPastTheWindow :
    (passOf 5 5).phase = .scanning ∧ (Instr.step ∈ [Instr.step, .nmeaSpan, .ubxSpan, .nmeaIncomplete, .ubxIncomplete, .skip 0x00#8] ∧
      (passOf 5 5).wlen ≤ (passOf 5 5).off) ∧
    (reportedLength (.ubxAck 0x00#8 0x00#8) = some 10 ∧ (passOf 0 9).wlen < (passOf 0 9).off + 10) ∧
    (({ passOf 0 9 with j := 9 } : State).off < ({ passOf 0 9 with j := 9 } : State).j ∧
      ({ passOf 0 9 with j := 9 } : State).wlen ≤ ({ passOf 0 9 with j := 9 } : State).j) := by decide

theorem witness_SkipCountsTheByte : passWith 1 (passOf 4 5) := by unfold passWith; decide

theorem witness_RmcGivesAPositionFix :
    passWith (sentenceSpan rmcText).length (passAt rmcBytes 0) ∧
    fieldValue rmcText.fields 1 parseTime = some ⟨23, 59, 5999 / 100⟩ ∧ fieldValue rmcText.fields 2 parseStatus = some true ∧
    fieldValue rmcText.fields 3 (parseAngle · 2) = some (3383539 / 100000) ∧ fieldValue rmcText.fields 4 parseHemiNs = some (-1) ∧
    fieldValue rmcText.fields 5 (parseAngle · 3) = some (45362839 / 300000) ∧ fieldValue rmcText.fields 6 parseHemiEw = some (-1) := by
  unfold passWith; decide +kernel

/-- The lowest and the highest field: none present, and all but the last. -/
theorem witness_RmcNamesTheLowestBadField :
    (passWith (sentenceSpan { rmcText with fields := [] }).length (passOf 0 100) ∧ rmcFieldOk [] 1 = false ∧
      ∀ m, m < 1 → rmcFieldOk [] m = true) ∧
    (passWith (sentenceSpan { rmcText with fields := rmcText.fields.take 6 }).length (passOf 0 100) ∧
      rmcFieldOk (rmcText.fields.take 6) 6 = false ∧ ∀ m, m < 6 → rmcFieldOk (rmcText.fields.take 6) m = true) := by
  unfold passWith; decide +kernel

theorem witness_GgaGivesAPositionFix :
    passWith (sentenceSpan ggaText).length (passAt ggaBytes 0) ∧
    fieldValue ggaText.fields 1 parseTime = some ⟨11, 18, 12⟩ ∧
    fieldValue ggaText.fields 2 (parseAngle · 2) = some (180094853 / 3000000) ∧ fieldValue ggaText.fields 3 parseHemiNs = some 1 ∧
    fieldValue ggaText.fields 4 (parseAngle · 3) = some (3648397 / 120000) ∧ fieldValue ggaText.fields 5 parseHemiEw = some 1 ∧
    fieldValue ggaText.fields 6 parseUint = some 0 ∧ fieldValue ggaText.fields 7 parseUint = some 0 ∧
    fieldValue ggaText.fields 8 parseDec = some ⟨[0x39#8, 0x39#8], [0x39#8, 0x39#8], 9999 / 100⟩ := by
  unfold passWith; decide +kernel

theorem witness_GgaNamesTheLowestBadField :
    (passWith (sentenceSpan { ggaText with fields := [] }).length (passOf 0 100) ∧ ggaFieldOk [] 1 = false ∧
      ∀ m, m < 1 → ggaFieldOk [] m = true) ∧
    (passWith (sentenceSpan { ggaText with fields := ggaText.fields.take 8 }).length (passOf 0 100) ∧
      ggaFieldOk (ggaText.fields.take 8) 8 = false ∧ ∀ m, m < 8 → ggaFieldOk (ggaText.fields.take 8) m = true) := by
  unfold passWith; decide +kernel

/-- The span `$*00\n` for the third clause, with another digit for the second, without its star for the first. -/
theorem witness_OtherSentencesAreReportedWhole :
    passWith 5 (passOf 0 5) ∧ nmeaFrame [0x24#8, 0x41#8, 0x30#8, 0x30#8, 0x0A#8] = none ∧
    (nmeaFrame [0x24#8, 0x2A#8, 0x30#8, 0x31#8, 0x0A#8] = some (1, 0x01#8) ∧
      nmeaXor (slice [0x24#8, 0x2A#8, 0x30#8, 0x31#8, 0x0A#8] 1 1) ≠ 0x01#8) ∧
    (nmeaFrame [0x24#8, 0x2A#8, 0x30#8, 0x30#8, 0x0A#8] = some (1, 0x00#8) ∧
      nmeaXor (slice [0x24#8, 0x2A#8, 0x30#8, 0x30#8, 0x0A#8] 1 1) = 0x00#8 ∧
      splitFields (slice [0x24#8, 0x2A#8, 0x30#8, 0x30#8, 0x0A#8] 1 1) = [] :: []) := by
  unfold passWith; decide

theorem witness_AcceptedFramesAreReportedWhole :
    passWith 10 (passOf 1 11) ∧ ∃ P : Bytes, P.length = 65535 ∧ P.length ≤ 65535 ∧ passWith (8 + P.length) (passOf 0 65543) :=
  ⟨witness_UbxAcceptConsumesTheFrame.1, witness_UbxAcceptConsumesTheFrame.2.2⟩

theorem witness_XorIsOrderFree : ([0x01#8, 0x02#8] : Bytes).Perm [0x02#8, 0x01#8] := List.Perm.swap _ _ _

/-- The ends of the three ranges of digits, and a byte on each side. -/
theorem witness_HexValueOfTwoDigits :
    hexValue 0x30#8 = some 0x00#8 ∧ hexValue 0x39#8 = some 0x09#8 ∧ hexValue 0x41#8 = some 0x0A#8 ∧ hexValue 0x46#8 = some 0x0F#8 ∧
    hexValue 0x61#8 = some 0x0A#8 ∧ hexValue 0x66#8 = some 0x0F#8 ∧ hexValue 0x2F#8 = none ∧ hexValue 0x3A#8 = none ∧
    hexValue 0x40#8 = none ∧ hexValue 0x47#8 = none ∧ hexValue 0x60#8 = none ∧ hexValue 0x67#8 = none := by decide

theorem witness_OneCorruptPayloadByteIsDetected :
    ([0x00#8] : Bytes).length ≤ 65535 ∧ 0 < ([0x00#8] : Bytes).length ∧ ([0x00#8] : Bytes)[0]? ≠ some 0x01#8 := by decide

/-- No structure; a wrong checksum; RMC, GGA, and an address field of no byte. -/
theorem witness_DecodeChecksInOrder :
    nmeaFrame [] = none ∧
    (nmeaFrame [0x24#8, 0x2A#8, 0x30#8, 0x31#8, 0x0A#8] = some (1, 0x01#8) ∧
      nmeaXor (slice [0x24#8, 0x2A#8, 0x30#8, 0x31#8, 0x0A#8] 1 1) ≠ 0x01#8) ∧
    (nmeaFrame rmcBytes = some (58, 0x36#8) ∧ nmeaXor (slice rmcBytes 1 58) = 0x36#8 ∧
      splitFields (slice rmcBytes 1 58) = rmcText.fields ∧ (rmcText.fields.headD []).length = 5 ∧
      (rmcText.fields.headD []).drop 2 = [0x52#8, 0x4D#8, 0x43#8]) ∧
    (nmeaFrame ggaBytes = some (54, 0x50#8) ∧ nmeaXor (slice ggaBytes 1 54) = 0x50#8 ∧
      splitFields (slice ggaBytes 1 54) = ggaText.fields ∧ (ggaText.fields.headD []).length = 5 ∧
      (ggaText.fields.headD []).drop 2 = [0x47#8, 0x47#8, 0x41#8]) ∧
    (nmeaFrame [0x24#8, 0x2A#8, 0x30#8, 0x30#8, 0x0A#8] = some (1, 0x00#8) ∧
      splitFields (slice [0x24#8, 0x2A#8, 0x30#8, 0x30#8, 0x0A#8] 1 1) = [] :: [] ∧ ([] : Bytes).length ≠ 5) := by decide

theorem witness_TokensAreTheBodySplitAtCommas :
    nmeaFrame rmcBytes = some (58, 0x36#8) ∧ nmeaXor (slice rmcBytes 1 58) = 0x36#8 := by decide

theorem witness_AddressFieldIsTalkerAndType :
    (([0x47#8, 0x50#8] : Bytes).length = 2 ∧ ([0x52#8, 0x4D#8, 0x43#8] : Bytes).length = 3 ∧
      ([0x47#8, 0x50#8, 0x52#8, 0x4D#8, 0x43#8] : Bytes) = [0x47#8, 0x50#8] ++ [0x52#8, 0x4D#8, 0x43#8]) ∧
    ([0x47#8, 0x50#8, 0x52#8, 0x4D#8] : Bytes).length ≠ 5 ∧ ([0x47#8, 0x50#8, 0x52#8, 0x4D#8, 0x43#8, 0x58#8] : Bytes).length ≠ 5 := by
  decide

theorem witness_FixOnlyFromAValidSentence :
    nmeaDecode rmcBytes = .positionFix rmcFixExpected ∧ nmeaDecode ggaBytes = .positionFix ggaFixExpected := by decide +kernel

/-- The digits at the ends of the range, and the bytes next to them. -/
theorem witness_UintIsTheDecimalNumber :
    (([0x30#8, 0x39#8] : Bytes) ≠ [] ∧ ∀ b ∈ ([0x30#8, 0x39#8] : Bytes), 0x30 ≤ b.toNat ∧ b.toNat ≤ 0x39) ∧
    (∃ b ∈ ([0x2F#8] : Bytes), b.toNat < 0x30 ∨ 0x39 < b.toNat) ∧ (∃ b ∈ ([0x3A#8] : Bytes), b.toNat < 0x30 ∨ 0x39 < b.toNat) := by
  decide

/-- `5`, `5.` and `5.67`; a lone point. -/
theorem witness_DecIsTheExactRational :
    (([0x35#8] : Bytes) ≠ [] ∧ ([0x35#8] : Bytes).all isDigit = true) ∧
    (([] : Bytes).all isDigit = true ∧ ([0x35#8, 0x2E#8] : Bytes) = [0x35#8] ++ 0x2E#8 :: []) ∧
    (([0x36#8, 0x37#8] : Bytes).all isDigit = true ∧ ([0x35#8, 0x2E#8, 0x36#8, 0x37#8] : Bytes) = [0x35#8] ++ 0x2E#8 :: [0x36#8, 0x37#8]) ∧
    ∀ ip fp : Bytes, ip ≠ [] → ip.all isDigit = true → fp.all isDigit = true → [0x2E#8] ≠ ip ∧ [0x2E#8] ≠ ip ++ 0x2E#8 :: fp := by
  refine ⟨by decide, by decide, by decide, fun ip fp h1 h2 _ => ⟨?_, fun h => ?_⟩⟩
  · rintro rfl; revert h2; decide
  · rcases ip with _ | ⟨b, bs⟩
    · exact h1 rfl
    · simp only [List.cons_append, List.cons.injEq] at h
      rw [← h.1] at h2
      simp [show isDigit 0x2E#8 = false by decide] at h2

/-- `0130` and `0130.`, a latitude of 1 degree 30; three integer digits, and no number. -/
theorem witness_AngleIsDegreesPlusMinutes :
    ([0x30#8, 0x31#8] : Bytes).length = 2 ∧ ([0x33#8, 0x30#8] : Bytes).length = 2 ∧
    (([0x30#8, 0x31#8] : Bytes) ++ [0x33#8, 0x30#8] ++ []).all isDigit = true ∧
    (([0x30#8, 0x31#8, 0x33#8, 0x30#8] : Bytes) = [0x30#8, 0x31#8] ++ [0x33#8, 0x30#8] ++ 0x2E#8 :: [] ∨
      ([0x30#8, 0x31#8, 0x33#8, 0x30#8] : Bytes) = [0x30#8, 0x31#8] ++ [0x33#8, 0x30#8] ∧ ([] : Bytes) = []) ∧
    (([0x30#8, 0x31#8, 0x33#8, 0x30#8, 0x2E#8] : Bytes) = [0x30#8, 0x31#8] ++ [0x33#8, 0x30#8] ++ 0x2E#8 :: [] ∨
      ([0x30#8, 0x31#8, 0x33#8, 0x30#8, 0x2E#8] : Bytes) = [0x30#8, 0x31#8] ++ [0x33#8, 0x30#8] ∧ ([] : Bytes) = []) ∧
    ((parseDec [0x31#8, 0x33#8, 0x30#8]).map (·.ip.length) = some 3 ∧ 3 ≠ 2 + 2) ∧ parseDec [] = none := by decide

/-- `235959` and `235959.`; five integer digits, and no number. -/
theorem witness_TimeIsHoursMinutesSeconds :
    ([0x32#8, 0x33#8] : Bytes).length = 2 ∧ ([0x35#8, 0x39#8] : Bytes).length = 2 ∧
    (([0x32#8, 0x33#8] : Bytes) ++ [0x35#8, 0x39#8] ++ [0x35#8, 0x39#8] ++ []).all isDigit = true ∧
    (([0x32#8, 0x33#8, 0x35#8, 0x39#8, 0x35#8, 0x39#8] : Bytes) = [0x32#8, 0x33#8] ++ [0x35#8, 0x39#8] ++ [0x35#8, 0x39#8] ++ 0x2E#8 :: [] ∨
      ([0x32#8, 0x33#8, 0x35#8, 0x39#8, 0x35#8, 0x39#8] : Bytes) = [0x32#8, 0x33#8] ++ [0x35#8, 0x39#8] ++ [0x35#8, 0x39#8] ∧
        ([] : Bytes) = []) ∧
    ((parseDec [0x31#8, 0x33#8, 0x30#8, 0x30#8, 0x30#8]).map (·.ip.length) = some 5 ∧ 5 ≠ 6) ∧ parseDec [] = none := by decide

theorem witness_LetterFieldsAreExact :
    ([] : Bytes) ≠ [0x4E#8] ∧ ([] : Bytes) ≠ [0x53#8] ∧ ([0x4E#8, 0x4E#8] : Bytes) ≠ [0x4E#8] ∧ ([0x4E#8, 0x4E#8] : Bytes) ≠ [0x53#8] ∧
    ([0x4E#8] : Bytes) ≠ [0x45#8] ∧ ([0x4E#8] : Bytes) ≠ [0x57#8] ∧ ([0x4E#8] : Bytes) ≠ [0x41#8] ∧ ([0x4E#8] : Bytes) ≠ [0x56#8] := by
  decide

theorem witness_PureOperationsLeaveThePassAlone :
    isPureOperation (.nmeaXor []) = true ∧ ∃ t, exec (.nmeaXor []) (passOf 1 2) = .next t := ⟨rfl, _, rfl⟩

/-- Seven bytes; eight with the sync word and cut; a whole frame, and the same with only its last byte wrong; eight without the sync word. -/
theorem witness_UbxDecodeNeedsTheSyncWord :
    (List.replicate 7 0x00#8).length < 8 ∧
    (8 ≤ (frameBytes.take 8).length ∧ startsSync (frameBytes.take 8) = true ∧ (frameBytes.take 8).length < 8 + (ubxLen (frameBytes.take 8)).toNat) ∧
    (8 ≤ ackBytes.length ∧ startsSync ackBytes = true ∧ 8 + (ubxLen ackBytes).toNat ≤ ackBytes.length ∧
      ubxDecode (ackBytes.set 9 0x39#8) = .rejected .checksumMismatch) ∧
    (8 ≤ (List.replicate 8 0x00#8).length ∧ startsSync (List.replicate 8 0x00#8) = false) := by decide

theorem witness_AcceptedFramesAreTheWrittenForm : startsSync ackBytes = true := by decide

theorem witness_BuiltFrameDecodesToItsTriple : ([] : Bytes).length ≤ 65535 ∧ ∃ P : Bytes, P.length = 65535 ∧ P.length ≤ 65535 := by
  refine ⟨by decide, List.replicate 65535 0x00#8, ?_⟩
  rw [List.length_replicate]; omega

theorem witness_CommandFramesByName : State.reset.rom = romContents := rfl

theorem witness_EveryResultIsRoutedOnce : ∀ p, (⟨.unrecognizedBytes, 1⟩ : Result).kind ≠ .positionFix p := fun _ h => by cases h

end Sys2Proof.Tests
end

/-! PROOFS. The checksum and codec primitives of `40_checksum.md`. First the algebra of each sum and of the
digits, then what each primitive's instruction does to the state, then the obligations assembled from both. -/

namespace Sys2Proof.Proofs

open Sys2Proof.Machine

/-! ### The XOR of a body -/

@[simp] theorem nmeaXor_nil : nmeaXor [] = 0x00#8 := rfl

@[simp] theorem nmeaXor_cons (b : Byte) (B : Bytes) : nmeaXor (b :: B) = b ^^^ nmeaXor B := by
  rw [nmeaXor, List.foldl_cons, xor_foldl, BitVec.zero_xor]

theorem nmeaXor_perm {B C : Bytes} (h : B.Perm C) : nmeaXor B = nmeaXor C := by
  induction h with
  | nil => rfl
  | cons b _ ih => rw [nmeaXor_cons, nmeaXor_cons, ih]
  | swap b c B => simp only [nmeaXor_cons, ← BitVec.xor_assoc, BitVec.xor_comm b c]
  | trans _ _ ihBC ihCD => exact ihBC.trans ihCD

/-! ### The Fletcher sums -/

@[simp] theorem ubxCk_nil : ubxCk [] = (0x00#8, 0x00#8) := rfl

/-- The second Fletcher sum from any start: each byte adds the first sum's start once more. -/
theorem ubxCk_foldl_snd (D : Bytes) (ck : Byte × Byte) :
    (D.foldl ubxCkStep ck).2 = ck.2 + BitVec.ofNat 8 D.length * ck.1 + (ubxCk D).2 := by
  induction D generalizing ck with
  | nil => simp
  | cons d ds ih =>
    rw [ubxCk, List.foldl_cons, List.foldl_cons, ih, ih (ubxCkStep (0x00#8, 0x00#8) d)]
    simp only [ubxCkStep, List.length_cons, BitVec.ofNat_add, BitVec.add_mul, BitVec.one_mul, BitVec.zero_add]
    ring

@[simp] theorem ubxCk_cons_fst (d : Byte) (D : Bytes) : (ubxCk (d :: D)).1 = d + (ubxCk D).1 := by
  rw [ubxCk, List.foldl_cons, ubxCk_foldl_fst, ← ubxCk]
  simp [ubxCkStep]

/-- The first byte is counted once in the second sum for every byte from it to the end. -/
@[simp] theorem ubxCk_cons_snd (d : Byte) (D : Bytes) :
    (ubxCk (d :: D)).2 = BitVec.ofNat 8 (D.length + 1) * d + (ubxCk D).2 := by
  rw [ubxCk, List.foldl_cons, ubxCk_foldl_snd, BitVec.ofNat_add]
  simp only [ubxCkStep, BitVec.add_mul, BitVec.one_mul, BitVec.zero_add]
  ring

/-- `CK_A` in closed form (R65). -/
theorem ubxCk_fst_toNat (D : Bytes) : (ubxCk D).1.toNat = (D.map BitVec.toNat).sum % 256 := by
  induction D with
  | nil => rfl
  | cons d ds ih => simp [BitVec.toNat_add, ih]

/-- The sum that `CK_B` is modulo 256 (R65): each byte weighted by the number of bytes from it to the end. -/
def weightedSum (D : Bytes) : Nat :=
  ((List.range D.length).map fun k => (D.length - k) * (D.getD k 0x00#8).toNat).sum

@[simp] theorem weightedSum_nil : weightedSum [] = 0 := rfl

@[simp] theorem weightedSum_cons (d : Byte) (D : Bytes) :
    weightedSum (d :: D) = (D.length + 1) * d.toNat + weightedSum D := by
  simp [weightedSum, List.range_succ_eq_map, Function.comp_def]

/-- `CK_B` in closed form (R65). -/
theorem ubxCk_snd_toNat (D : Bytes) : (ubxCk D).2.toNat = weightedSum D % 256 := by
  induction D with
  | nil => rfl
  | cons d ds ih => simp [BitVec.toNat_add, BitVec.toNat_mul, ih]

theorem ubxCkValid_eq_decide (D : Bytes) (a b : Byte) :
    ubxCkValid D a b = decide ((ubxCk D).1 = a ∧ (ubxCk D).2 = b) := by
  simp [ubxCkValid, Bool.decide_and, beq_eq_decide]

/-! ### Hexadecimal digits -/

theorem hexValue_eq_some_iff (c h : Byte) : hexValue c = some h ↔
    (0x30 ≤ c.toNat ∧ c.toNat ≤ 0x39 ∧ h.toNat = c.toNat - 0x30) ∨
    (0x41 ≤ c.toNat ∧ c.toNat ≤ 0x46 ∧ h.toNat = c.toNat - 0x41 + 10) ∨
    (0x61 ≤ c.toNat ∧ c.toNat ≤ 0x66 ∧ h.toNat = c.toNat - 0x61 + 10) := by
  unfold hexValue
  split_ifs with digit upper lower
  all_goals
    simp only [Option.some.injEq, false_iff, BitVec.le_def, BitVec.toNat_eq, BitVec.toNat_add, BitVec.toNat_sub,
      BitVec.toNat_ofNat] at *
    omega

/-- R63: `30 + n` up to 9 and `41 + (n - 10)` above. -/
theorem hexDigit_toNat {n : Nat} (hn : n < 16) :
    (hexDigit n).toNat = if n ≤ 9 then 0x30 + n else 0x41 + (n - 10) := by
  unfold hexDigit
  split_ifs <;> rw [BitVec.toNat_ofNat] <;> omega

/-- R64 reads back a digit of R63. -/
theorem hexValue_hexDigit {n : Nat} (hn : n < 16) : hexValue (hexDigit n) = some (BitVec.ofNat 8 n) := by
  rw [hexValue_eq_some_iff, hexDigit_toNat hn, BitVec.toNat_ofNat]
  split_ifs <;> omega

theorem hex2Dec_of_digits {c1 c2 h l : Byte} (hh : hexValue c1 = some h) (hl : hexValue c2 = some l) :
    hex2Dec c1 c2 = some (16#8 * h + l) := by
  rw [hex2Dec, hh, hl]

theorem hex2Dec_eq_none {c1 c2 : Byte} (h : hexValue c1 = none ∨ hexValue c2 = none) : hex2Dec c1 c2 = none := by
  cases hd : hex2Dec c1 c2 with
  | none => rfl
  | some v =>
    obtain ⟨h1, h2⟩ := hex2Dec_some hd
    rcases h with h | h
    · simp [h] at h1
    · simp [h] at h2

/-- The two digits of R63, by the numbers of the nibbles. -/
theorem hex2Enc_eq (v : Byte) : hex2Enc v = (hexDigit (v.toNat / 16), hexDigit (v.toNat % 16)) := by
  have hv := v.isLt
  simp [hex2Enc, BitVec.extractLsb'_toNat, Nat.shiftRight_eq_div_pow, Nat.mod_eq_of_lt (show v.toNat / 16 < 16 by omega)]

/-- HEX2DEC reads back what HEX2ENC writes (R63, R64). -/
theorem hex2Dec_hex2Enc (v : Byte) : hex2Dec (hex2Enc v).1 (hex2Enc v).2 = some v := by
  have hv := v.isLt
  have hi : hexValue (hexDigit (v.toNat / 16)) = some _ := hexValue_hexDigit (by omega)
  have lo : hexValue (hexDigit (v.toNat % 16)) = some _ := hexValue_hexDigit (by omega)
  rw [hex2Enc_eq, hex2Dec_of_digits hi lo, Option.some.injEq, BitVec.toNat_eq, BitVec.toNat_add, BitVec.toNat_mul]
  simp only [BitVec.toNat_ofNat]
  omega

/-! ### What the primitives do to the state -/

theorem exec_nmeaXor (B : Bytes) (s : State) :
    exec (.nmeaXor B) s = .next { s with x := nmeaXor B, ret := .byte (nmeaXor B) } := rfl

theorem exec_hex2Enc (v : Byte) (s : State) :
    exec (.hex2Enc v) s = .next { s with ret := .digits (hex2Enc v).1 (hex2Enc v).2 } := rfl

theorem exec_hex2Dec (c1 c2 : Byte) (s : State) :
    exec (.hex2Dec c1 c2) s = .next { s with ret := (hex2Dec c1 c2).elim .invalid .byte } := by
  change execHex2Dec c1 c2 s = _
  rw [execHex2Dec]
  cases hex2Dec c1 c2 <;> rfl

theorem exec_ubxCk (D : Bytes) (s : State) :
    exec (.ubxCk D) s = .next { s with ckA := (ubxCk D).1, ckB := (ubxCk D).2, ret := .sums (ubxCk D).1 (ubxCk D).2 } := rfl

theorem exec_ubxCkValid (D : Bytes) (a b : Byte) (s : State) :
    exec (.ubxCkValid D a b) s =
      .next { s with ckA := (ubxCk D).1, ckB := (ubxCk D).2, ret := .truth (ubxCkValid D a b) } := rfl

/-! ### The obligations -/

/-- Settles O37: the sum is a fold by an associative and commutative operation, so a permutation keeps it. -/
theorem xorIsOrderFree : Obligations.XorIsOrderFree :=
  ⟨fun s B => exec_nmeaXor B s, nmeaXor_nil, nmeaXor_cons, fun _ _ => nmeaXor_perm⟩

/-- Settles O40: both closed forms by induction over the bytes, the first byte's share in `CK_B` being its weight. -/
theorem fletcherSumsInClosedForm : Obligations.FletcherSumsInClosedForm := by
  intro s D a b
  refine ⟨exec_ubxCk D s, ubxCk_fst_toNat D, ubxCk_snd_toNat D, ?_⟩
  rw [exec_ubxCkValid, ubxCkValid_eq_decide]

/-- Settles O38: the digits are those of the two nibbles, and HEX2DEC reads each back. -/
theorem hexDigitsOfAByte : Obligations.HexDigitsOfAByte := by
  intro s v
  have hv := v.isLt
  refine ⟨(hex2Enc v).1, (hex2Enc v).2, exec_hex2Enc v s, ?_, ?_, ?_⟩
  · simp only [exec_hex2Dec, hex2Dec_hex2Enc, Option.elim_some]
  · rw [hex2Enc_eq, hexDigit_toNat (by omega)]
  · rw [hex2Enc_eq, hexDigit_toNat (by omega)]

/-- Settles O39: HEX2DEC by the two digit values, and the digit values by the ranges of the character code. -/
theorem hexValueOfTwoDigits : Obligations.HexValueOfTwoDigits := by
  intro s c1 c2
  refine ⟨fun h l hh hl => ?_, fun h => ?_, hexValue_eq_some_iff⟩
  · simp only [exec_hex2Dec, hex2Dec_of_digits hh hl, Option.elim_some]
  · simp only [exec_hex2Dec, hex2Dec_eq_none h, Option.elim_none]

end Sys2Proof.Proofs

/-! PROOFS. The sentence decoder's parts of `41_nmea_decoder.md`: the frame, the checksum comparison, the fields, and
the number formats inside a field. First what each function of the model answers, then what its instruction does to the
state, then the obligations assembled from both. -/

namespace Sys2Proof.Proofs

open Sys2Proof.Machine

/-! ### Digits and the numbers they spell -/

theorem isDigit_iff (b : Byte) : isDigit b = true ↔ 0x30 ≤ b.toNat ∧ b.toNat ≤ 0x39 := by
  simp [isDigit, BitVec.le_def]

theorem isDigit_eq_false_iff (b : Byte) : isDigit b = false ↔ b.toNat < 0x30 ∨ 0x39 < b.toNat := by
  rw [Bool.eq_false_iff, ne_eq, isDigit_iff]
  omega

/-- A digit further right adds itself to ten times the number before it. -/
theorem decimal_concat (t : Bytes) (b : Byte) : decimal (t ++ [b]) = 10 * decimal t + (b.toNat - 0x30) := by
  simp [decimal]

/-- The model's fold spells the number in base 10, first digit highest (R76). -/
theorem decimal_eq_ofDigits (t : Bytes) : decimal t = Nat.ofDigits 10 (t.reverse.map fun b => b.toNat - 0x30) := by
  induction t using List.reverseRecOn with
  | nil => rfl
  | append_singleton t b ih =>
    rw [decimal_concat, ih, List.reverse_concat, List.map_cons, Nat.ofDigits_cons]
    omega

theorem parseUint_of_digits {t : Bytes} (hne : t ≠ []) (ht : t.all isDigit = true) : parseUint t = some (decimal t) :=
  if_pos ⟨hne, ht⟩

theorem parseUint_eq_none_iff {t : Bytes} : parseUint t = none ↔ t = [] ∨ ∃ b ∈ t, isDigit b = false := by
  simp [parseUint, imp_iff_not_or]

/-! ### Decimals -/

/-- The text `t` of a decimal with integer digits `ip` and fraction digits `fp`: the point may stand without a fraction,
and a fraction not without the point (R50). -/
def decText (ip fp t : Bytes) : Prop := t = ip ++ chDot :: fp ∨ (t = ip ∧ fp = [])

theorem decValue_eq (ip fp : Bytes) : decValue ip fp = decimal ip + decimal fp / 10 ^ fp.length := by
  simp [decValue]

@[simp] theorem decValue_nil (ip : Bytes) : decValue ip [] = decimal ip := by
  simp [decValue, decimal]

/-- The integer part of a decimal ends where the digits end: at the point or with the text. -/
theorem parseDec_of_decText {ip fp t : Bytes} (hne : ip ≠ []) (hip : ip.all isDigit = true) (hfp : fp.all isDigit = true)
    (ht : decText ip fp t) : parseDec t = some ⟨ip, fp, decValue ip fp⟩ := by
  have digits : ∀ b ∈ ip, isDigit b = true := List.all_eq_true.mp hip
  have dot : isDigit chDot = false := by decide
  rcases ht with rfl | ⟨rfl, rfl⟩
  · have front : (ip ++ chDot :: fp).takeWhile isDigit = ip := by
      simp [List.takeWhile_append_of_pos digits, dot]
    have back : (ip ++ chDot :: fp).dropWhile isDigit = chDot :: fp := by
      simp [List.dropWhile_append_of_pos digits, dot]
    simp [parseDec, front, back, hne, hfp]
  · have front : t.takeWhile isDigit = t := List.takeWhile_eq_self_iff.mpr digits
    have back : t.dropWhile isDigit = [] := List.dropWhile_eq_nil_iff.mpr digits
    simp [parseDec, front, back, hne]

/-- What PARSE_DEC accepts is digits, or digits, a point and digits (R77). -/
theorem decText_of_parseDec {t : Bytes} {d : DecParts} (h : parseDec t = some d) :
    d.ip ≠ [] ∧ d.ip.all isDigit = true ∧ d.fp.all isDigit = true ∧ decText d.ip d.fp t := by
  have whole : t.takeWhile isDigit ++ t.dropWhile isDigit = t := List.takeWhile_append_dropWhile
  have digits : (t.takeWhile isDigit).all isDigit = true := List.all_takeWhile
  rw [parseDec] at h
  by_cases hne : t.takeWhile isDigit = []
  · simp [hne] at h
  · cases back : t.dropWhile isDigit with
    | nil =>
      rw [back, List.append_nil] at whole
      simp only [hne, back, if_false, Option.some.injEq] at h
      subst h
      exact ⟨hne, digits, rfl, .inr ⟨whole.symm, rfl⟩⟩
    | cons p fp =>
      simp only [hne, back, if_false, Option.ite_none_right_eq_some, Option.some.injEq] at h
      obtain ⟨⟨rfl, hfp⟩, rfl⟩ := h
      exact ⟨hne, digits, hfp, .inl (by rw [← back, whole])⟩

/-! ### Angles and times -/

theorem slice_append_left (A B : Bytes) : slice (A ++ B) 0 A.length = A := by
  simpa using slice_of_append [] A B

theorem slice_append_right (A B : Bytes) : slice (A ++ B) A.length (A.length + B.length) = B := by
  simpa using slice_of_append A B []

/-- R78: the last two integer digits and the fraction are the minutes. -/
theorem parseAngle_of_parseDec {t dd mm fp : Bytes} {v : Rat} (hmm : mm.length = 2)
    (h : parseDec t = some ⟨dd ++ mm, fp, v⟩) : parseAngle t dd.length = some (decimal dd + decValue mm fp / 60) := by
  have minutes : slice (dd ++ mm) dd.length (dd.length + 2) = mm := hmm ▸ slice_append_right dd mm
  simp [parseAngle, h, hmm, minutes, slice_append_left]

theorem parseAngle_eq_none {t : Bytes} {nd : Nat} (h : ∀ d, parseDec t = some d → d.ip.length ≠ nd + 2) :
    parseAngle t nd = none := by
  rw [parseAngle]
  cases hd : parseDec t with
  | none => rfl
  | some d => exact if_neg (h d hd)

/-- R79: two digits each of hours, minutes and whole seconds; the fraction belongs to the seconds. -/
theorem parseTime_of_parseDec {t h m ss fp : Bytes} {v : Rat} (hh : h.length = 2) (hm : m.length = 2) (hs : ss.length = 2)
    (hd : parseDec t = some ⟨h ++ m ++ ss, fp, v⟩) : parseTime t = some ⟨decimal h, decimal m, decValue ss fp⟩ := by
  have hours : slice (h ++ (m ++ ss)) 0 2 = h := hh ▸ slice_append_left h (m ++ ss)
  have minutes : slice (h ++ (m ++ ss)) 2 4 = m := by simpa [hh, hm] using slice_of_append h m ss
  have seconds : slice (h ++ (m ++ ss)) 4 6 = ss := by simpa [hh, hm, hs] using slice_append_right (h ++ m) ss
  simp [parseTime, hd, hh, hm, hs, hours, minutes, seconds]

theorem parseTime_eq_none {t : Bytes} (h : ∀ d, parseDec t = some d → d.ip.length ≠ 6) : parseTime t = none := by
  rw [parseTime]
  cases hd : parseDec t with
  | none => rfl
  | some d => exact if_neg (h d hd)

/-! ### The frame of a sentence -/

/-- A byte found by a search does not stand before the place found. -/
theorem findByte_eq_some_iff_not_mem {c : Byte} {S : Bytes} {a b k : Nat} :
    findByte c S a b = some k ↔ a ≤ k ∧ k < b ∧ S[k]? = some c ∧ c ∉ slice S a k := by
  have before : c ∉ slice S a k ↔ ∀ m, a ≤ m → m < k → S[m]? ≠ some c := by
    rw [List.mem_iff_getElem?, not_exists]
    constructor
    · intro h m ham hmk hm
      exact h (m - a) (by rw [slice_getElem?, if_pos (by omega), Nat.add_sub_cancel' ham, hm])
    · intro h m hm
      rw [slice_getElem?, Option.ite_none_right_eq_some] at hm
      exact h (a + m) (by omega) hm.1 hm.2
  rw [findByte_eq_some_iff, before]

/-- The end of a sentence (R46): `\n`, with or without `\r` before it. -/
def isTerminator (tail : Bytes) : Prop := tail = [chLF] ∨ tail = [chCR, chLF]

/-- The span of R46: `$`, body, `*`, two digits, terminator. -/
def writtenSpan (body : Bytes) (h1 h2 : Byte) (tail : Bytes) : Bytes :=
  chDollar :: (body ++ chStar :: h1 :: h2 :: tail)

theorem writtenSpan_eq_append (body : Bytes) (h1 h2 : Byte) (tail : Bytes) :
    writtenSpan body h1 h2 tail = (chDollar :: body ++ [chStar, h1, h2]) ++ tail := by
  simp [writtenSpan]

theorem spanDelimited_iff {S : Bytes} :
    spanDelimited S = true ↔ S.head? = some chDollar ∧ S.getLast? = some chLF := by
  simp [spanDelimited]

/-- The four tests of R71, in its order. -/
theorem nmeaFrame_eq_some_iff {S : Bytes} {i : Nat} {cks : Byte} :
    nmeaFrame S = some (i, cks) ↔ spanDelimited S = true ∧ starIndex S = some i ∧ frameEnd S = i + 3 ∧
      hex2Dec (S.getD (i + 1) 0x00#8) (S.getD (i + 2) 0x00#8) = some cks := by
  rw [nmeaFrame]
  cases starIndex S with
  | none => simp
  | some k =>
    simp only [Option.ite_none_right_eq_some, Option.map_eq_some_iff, Prod.mk.injEq, Option.some.injEq]
    constructor
    · rintro ⟨delimited, hend, v, digits, rfl, rfl⟩
      exact ⟨delimited, rfl, hend, digits⟩
    · rintro ⟨delimited, rfl, hend, digits⟩
      exact ⟨delimited, hend, cks, digits, rfl, rfl⟩

/-- The last byte is left out of the sentence's text, and a `\r` directly before it too. -/
theorem frameEnd_append_singleton (A : Bytes) (b : Byte) :
    frameEnd (A ++ [b]) = if 1 ≤ A.length - 1 ∧ A.getLast? = some chCR then A.length - 1 else A.length := by
  have before : 1 ≤ A.length - 1 → (A ++ [b])[A.length - 1]? = A.getLast? := fun h => by
    rw [List.getElem?_append_left (by omega), List.getLast?_eq_getElem?]
  simp only [frameEnd, List.length_append, List.length_singleton, Nat.add_sub_cancel]
  exact if_congr (and_congr_right fun h => by rw [before h]) rfl rfl

/-- `frameEnd` cuts a span that ends at `\n` before its terminator. -/
theorem exists_terminator_of_getLast? {S : Bytes} (h : S.getLast? = some chLF) :
    ∃ tail, isTerminator tail ∧ S = S.take (frameEnd S) ++ tail := by
  obtain ⟨A, rfl⟩ : ∃ A, S = A ++ [chLF] := List.getLast?_eq_some_iff.mp h
  rw [frameEnd_append_singleton]
  split_ifs with cr
  · obtain ⟨B, rfl⟩ := List.getLast?_eq_some_iff.mp cr.2
    exact ⟨[chCR, chLF], .inr rfl, by simp⟩
  · exact ⟨[chLF], .inl rfl, by simp⟩

/-- `frameEnd` is the length of what stands before the terminator, unless that ends in `\r` itself. -/
theorem frameEnd_append {A tail : Bytes} (hlen : 1 ≤ A.length) (hcr : A.getLast? ≠ some chCR) (ht : isTerminator tail) :
    frameEnd (A ++ tail) = A.length := by
  rcases ht with rfl | rfl
  · rw [frameEnd_append_singleton, if_neg fun h => hcr h.2]
  · have := frameEnd_append_singleton (A ++ [chCR]) chLF
    simpa [hlen] using this

theorem take_add_three {S : Bytes} {i : Nat} (h : i + 2 < S.length) :
    S.take (i + 3) = S.take i ++ [S.getD i 0x00#8, S.getD (i + 1) 0x00#8, S.getD (i + 2) 0x00#8] := by
  have h0 : i < S.length := by omega
  have h1 : i + 1 < S.length := by omega
  simp only [List.take_add_one, List.getElem?_eq_getElem, List.getD_eq_getElem, Option.toList_some, List.append_assoc,
    List.cons_append, List.nil_append, h0, h1, h]

/-- The tests of R71 read the written form off a span. -/
theorem writtenSpan_of_nmeaFrame {S : Bytes} {i : Nat} {cks : Byte} (h : nmeaFrame S = some (i, cks)) :
    ∃ body tail h1 h2, S = writtenSpan body h1 h2 tail ∧ chStar ∉ body ∧ hex2Dec h1 h2 = some cks ∧
      i = 1 + body.length ∧ isTerminator tail := by
  obtain ⟨delimited, star, hend, digits⟩ := nmeaFrame_eq_some_iff.mp h
  obtain ⟨hhead, hlast⟩ := spanDelimited_iff.mp delimited
  obtain ⟨hi, -, hstar, hbody⟩ := findByte_eq_some_iff_not_mem.mp star
  obtain ⟨tail, ht, hS⟩ := exists_terminator_of_getLast? hlast
  have hlen : i + 2 < S.length := by
    have htail : 1 ≤ tail.length := by rcases ht with rfl | rfl <;> simp
    have := congrArg List.length hS
    simp only [List.length_append, List.length_take] at this
    omega
  have front : S.take i = chDollar :: slice S 1 i := by
    obtain ⟨R, rfl⟩ := List.head?_eq_some_iff.mp hhead
    obtain ⟨k, rfl⟩ := Nat.exists_eq_add_of_le' hi
    simp [slice]
  rw [hend, take_add_three hlen, front, List.getD_eq_getElem?_getD, hstar] at hS
  exact ⟨slice S 1 i, tail, _, _, hS.trans (writtenSpan_eq_append _ _ _ _).symm, hbody, digits, by rw [slice_length]; omega, ht⟩

theorem slice_writtenSpan (body tail : Bytes) (h1 h2 : Byte) :
    slice (writtenSpan body h1 h2 tail) 1 (1 + body.length) = body := by
  simpa [writtenSpan] using slice_of_append [chDollar] body ([chStar, h1, h2] ++ tail)

/-- A span of the written form passes the tests of R71. -/
theorem nmeaFrame_writtenSpan {body tail : Bytes} {h1 h2 cks : Byte} (hbody : chStar ∉ body)
    (digits : hex2Dec h1 h2 = some cks) (ht : isTerminator tail) :
    nmeaFrame (writtenSpan body h1 h2 tail) = some (1 + body.length, cks) := by
  obtain ⟨v, hv⟩ := Option.isSome_iff_exists.mp (hex2Dec_some digits).2
  have digit_not_cr : h2 ≠ chCR := (hexValue_some_ne hv).1
  have hend : frameEnd (writtenSpan body h1 h2 tail) = 1 + body.length + 3 := by
    rw [writtenSpan_eq_append, frameEnd_append (by simp) _ ht]
    · simp; omega
    · rw [List.getLast?_append]
      simpa using digit_not_cr
  rw [nmeaFrame_eq_some_iff, spanDelimited_iff, starIndex, findByte_eq_some_iff_not_mem, hend]
  refine ⟨⟨rfl, ?_⟩, ⟨by omega, by omega, ?_, ?_⟩, rfl, ?_⟩
  · rcases ht with rfl | rfl <;> rw [writtenSpan_eq_append, List.getLast?_append] <;> rfl
  · simp [writtenSpan, Nat.add_comm 1]
  · rwa [slice_writtenSpan]
  · simp [writtenSpan, Nat.add_comm 1, digits]

/-- R46 and R71 agree: the frame's tests pass exactly the written form. -/
theorem nmeaFrame_eq_some_iff_writtenSpan {S : Bytes} {i : Nat} {cks : Byte} :
    nmeaFrame S = some (i, cks) ↔
      ∃ body tail h1 h2, S = writtenSpan body h1 h2 tail ∧ chStar ∉ body ∧ hex2Dec h1 h2 = some cks ∧
        i = 1 + body.length ∧ isTerminator tail := by
  refine ⟨writtenSpan_of_nmeaFrame, ?_⟩
  rintro ⟨body, tail, h1, h2, rfl, hbody, digits, rfl, ht⟩
  exact nmeaFrame_writtenSpan hbody digits ht

/-- The marks of a frame that passes: the star and, three bytes on, the terminator (R71). -/
theorem writeFrameMarks_of_nmeaFrame {S : Bytes} {i : Nat} {cks : Byte} (h : nmeaFrame S = some (i, cks)) (s : State) :
    s.writeFrameMarks S = { s with i := i, e := i + 3 } := by
  obtain ⟨delimited, star, hend, -⟩ := nmeaFrame_eq_some_iff.mp h
  simp only [State.writeFrameMarks, delimited, star, hend, if_true]

/-- NMEA_FRAME's marks are `i` and `e` alone. -/
theorem writeFrameMarks_frame (S : Bytes) (s : State) :
    s.writeFrameMarks S = { s with i := (s.writeFrameMarks S).i, e := (s.writeFrameMarks S).e } := by
  unfold State.writeFrameMarks
  (repeat' split) <;> rfl

/-! ### What the sentence decoder's parts do to the state -/

theorem exec_nmeaFrame (S : Bytes) (s : State) :
    exec (.nmeaFrame S) s = .next { s.writeFrameMarks S with
      ret := (nmeaFrame S).elim (.sentence .malformedSentence) fun p => .framed p.1 p.2 } := by
  change execNmeaFrame S s = _
  rw [execNmeaFrame]
  cases nmeaFrame S <;> rfl

theorem exec_nmeaCkcheck (S : Bytes) (i : Nat) (cks : Byte) (s : State) :
    exec (.nmeaCkcheck S i cks) s = .next { s with
      x := nmeaXor (slice S 1 i)
      ret := if nmeaCkOk S i cks then .ckOk else .sentence .checksumMismatch } := by
  change execNmeaCkcheck S i cks s = _
  rw [execNmeaCkcheck]
  cases nmeaCkOk S i cks <;> rfl

theorem exec_nmeaTokenize (S : Bytes) (i : Nat) (s : State) :
    exec (.nmeaTokenize S i) s = .next { s with ret := .fields (splitFields (slice S 1 i)) } := rfl

theorem exec_parseUint (t : Bytes) (s : State) :
    exec (.parseUint t) s = .next { s with ret := (parseUint t).elim .fail .natural } := giveParsed_eq _ _ s

theorem exec_parseDec (t : Bytes) (s : State) :
    exec (.parseDec t) s = .next { s with ret := (parseDec t).elim .fail .decimal } := giveParsed_eq _ _ s

theorem exec_parseAngle (t : Bytes) (nd : Nat) (s : State) :
    exec (.parseAngle t nd) s = .next { s with ret := (parseAngle t nd).elim .fail .degrees } := giveParsed_eq _ _ s

theorem exec_parseTime (t : Bytes) (s : State) :
    exec (.parseTime t) s = .next { s with ret := (parseTime t).elim .fail .time } := giveParsed_eq _ _ s

/-! ### The obligations -/

/-- Settles O43: what is framed is what `nmeaFrame` accepts, and that is the written form. -/
theorem frameIsTheWrittenForm : Obligations.FrameIsTheWrittenForm := by
  intro s S i cks
  have framed : (nmeaFrame S).elim (.sentence .malformedSentence) (fun p => .framed p.1 p.2) = Ret.framed i cks ↔
      nmeaFrame S = some (i, cks) := by
    cases nmeaFrame S <;> simp [Prod.ext_iff]
  refine ⟨_, exec_nmeaFrame S s, ?_, framed.trans nmeaFrame_eq_some_iff_writtenSpan, fun h => ?_, ?_⟩
  · rw [writeFrameMarks_frame]
  · rw [writeFrameMarks_of_nmeaFrame (framed.mp h)]
    exact ⟨rfl, rfl⟩
  · cases nmeaFrame S with
    | none => exact fun _ => rfl
    | some p => exact fun unframed => absurd rfl (unframed p.1 p.2)

/-- Settles O45: splitting at the commas and joining with commas are inverse on any body (R86). -/
theorem tokensAreTheBodySplitAtCommas : Obligations.TokensAreTheBodySplitAtCommas := by
  intro s S i
  have joined := joinFields_splitFields (slice S 1 i)
  exact ⟨_, exec_nmeaTokenize S i s, splitFields_length _, splitFields_no_comma _, joined,
    fun cks _ hcks => by rw [joined, hcks]⟩

/-- Settles O48: the fold over digits is the number in base 10, and a byte that is no digit has no reading. -/
theorem uintIsTheDecimalNumber : Obligations.UintIsTheDecimalNumber := by
  intro s t
  rw [exec_parseUint]
  constructor
  · intro hne hdigits
    have all_digits : t.all isDigit = true := List.all_eq_true.mpr fun b hb => (isDigit_iff b).mpr (hdigits b hb)
    rw [parseUint_of_digits hne all_digits, decimal_eq_ofDigits, Option.elim_some]
  · intro h
    have unread : parseUint t = none :=
      parseUint_eq_none_iff.mpr (h.imp_right fun ⟨b, hb, out⟩ => ⟨b, hb, (isDigit_eq_false_iff b).mpr out⟩)
    rw [unread, Option.elim_none]

/-- Settles O49: `parseDec` reads both written forms, and a text it reads has one of them. -/
theorem decIsTheExactRational : Obligations.DecIsTheExactRational := by
  intro s t
  rw [exec_parseDec]
  refine ⟨fun ip hne hip ht => ?_, fun ip fp hne hip hfp ht => ?_, fun other => ?_⟩
  · rw [parseDec_of_decText hne hip rfl (.inr ⟨ht, rfl⟩), decValue_nil, Option.elim_some]
  · rw [parseDec_of_decText hne hip hfp (.inl ht), decValue_eq, Option.elim_some]
  · cases h : parseDec t with
    | none => rfl
    | some d =>
      obtain ⟨hne, hip, hfp, ht⟩ := decText_of_parseDec h
      obtain ⟨not_digits, not_point⟩ := other d.ip d.fp hne hip hfp
      exact (ht.elim not_point fun whole => not_digits whole.1).elim

/-- Settles O50: the decimal's integer digits are the degrees' and then the minutes'. -/
theorem angleIsDegreesPlusMinutes : Obligations.AngleIsDegreesPlusMinutes := by
  intro s nd t
  rw [exec_parseAngle]
  refine ⟨?_, fun h => by rw [parseAngle_eq_none h, Option.elim_none]⟩
  rintro dd mm fp rfl hmm digits ht
  rw [List.all_append, Bool.and_eq_true] at digits
  have hne : dd ++ mm ≠ [] := List.ne_nil_of_length_pos (by simp [hmm])
  rw [parseAngle_of_parseDec hmm (parseDec_of_decText hne digits.1 digits.2 ht), decValue_eq, Option.elim_some]

/-- Settles O51: the decimal's integer digits are the hours', the minutes' and the whole seconds'. -/
theorem timeIsHoursMinutesSeconds : Obligations.TimeIsHoursMinutesSeconds := by
  intro s t
  rw [exec_parseTime]
  refine ⟨?_, fun h => by rw [parseTime_eq_none h, Option.elim_none]⟩
  intro h m ss fp hh hm hs digits ht
  rw [List.all_append, Bool.and_eq_true] at digits
  have hne : h ++ m ++ ss ≠ [] := List.ne_nil_of_length_pos (by simp [hs])
  rw [parseTime_of_parseDec hh hm hs (parseDec_of_decText hne digits.1 digits.2 ht), decValue_eq, Option.elim_some]

/-- Settles O44: the comparison of R72 is equality of the two bytes. -/
theorem checksumIsComparedWithTheBody : Obligations.ChecksumIsComparedWithTheBody := by
  intro s S i cks
  simp only [exec_nmeaCkcheck, nmeaCkOk, beq_iff_eq]

end Sys2Proof.Proofs

/-! PROOFS. The frame decoder of `42_ubx_decoder.md`: the declared length and the decoded parts, the outcome and the scratch
registers in each of the decoder's three cases (no 8 bytes, fewer than the frame declares, the whole frame), and the obligation
assembled from them. -/

namespace Sys2Proof.Proofs

open Sys2Proof.Machine

/-! ### The parts of a frame -/

/-- The two length bytes fit the 16 bits of `len` (R54). -/
theorem ubxLen_toNat (S : Bytes) : (ubxLen S).toNat = (S.getD 4 0x00#8).toNat + 256 * (S.getD 5 0x00#8).toNat := by
  have lo := (S.getD 4 0x00#8).isLt
  have hi := (S.getD 5 0x00#8).isLt
  rw [ubxLen, le16, BitVec.toNat_ofNat]
  omega

/-- Naming a frame Ack or Nak loses nothing of it (R91 to R93). -/
@[simp] theorem messageParts_ubxMessage (cls id : Byte) (P : Bytes) : messageParts (ubxMessage cls id P) = (cls, id, P) := by
  unfold ubxMessage
  split
  · split_ifs with ack nak
    · obtain ⟨rfl, rfl⟩ := ack; rfl
    · obtain ⟨rfl, rfl⟩ := nak; rfl
    · rfl
  · rfl

theorem eq_getD_iff {S : Bytes} {k : Nat} (h : k < S.length) (a d : Byte) : a = S.getD k d ↔ S[k]? = some a := by
  rw [List.getD_eq_getElem?_getD, List.getElem?_eq_getElem h, Option.getD_some, Option.some.injEq, eq_comm]

/-! ### The outcome, case by case -/

theorem ubxDecode_of_short {S : Bytes} (short : S.length < 8) : ubxDecode S = .rejected .truncatedFrame :=
  if_pos short

theorem ubxDecode_of_cut {S : Bytes} (cut : S.length < 8 + (ubxLen S).toNat) :
    ubxDecode S = .rejected .truncatedFrame := by
  rw [ubxDecode, ubxChecked, if_pos cut, ite_self]

/-- A frame that is there whole is decided by its two trailing bytes (R65, R133). -/
theorem ubxDecode_of_whole {S : Bytes} (whole : 8 + (ubxLen S).toNat ≤ S.length) :
    ubxDecode S =
      if S[6 + (ubxLen S).toNat]? = some (ubxCk (ubxCovered S)).1 ∧ S[7 + (ubxLen S).toNat]? = some (ubxCk (ubxCovered S)).2 then
        .accepted (ubxMessage (S.getD 2 0x00#8) (S.getD 3 0x00#8) (slice S 6 (6 + (ubxLen S).toNat)))
      else .rejected .checksumMismatch := by
  rw [ubxDecode, ubxChecked, if_neg (by omega), if_neg (by omega)]
  refine if_congr ?_ rfl rfl
  rw [ubxCkValid_eq_decide, decide_eq_true_eq, eq_getD_iff (by omega), eq_getD_iff (by omega)]

/-! ### The scratch registers, case by case -/

theorem writeFrameScratch_of_short {S : Bytes} (short : S.length < 8) (s : State) : s.writeFrameScratch S = s :=
  if_pos short

theorem writeFrameScratch_of_cut {S : Bytes} (long : 8 ≤ S.length) (cut : S.length < 8 + (ubxLen S).toNat) (s : State) :
    s.writeFrameScratch S = { s with len := ubxLen S } := by
  rw [State.writeFrameScratch, if_neg (by omega), if_pos cut]

theorem writeFrameScratch_of_whole {S : Bytes} (whole : 8 + (ubxLen S).toNat ≤ S.length) (s : State) :
    s.writeFrameScratch S = { s with
      len := ubxLen S, ckA := (ubxCk (ubxCovered S)).1, ckB := (ubxCk (ubxCovered S)).2 } := by
  rw [State.writeFrameScratch, if_neg (by omega), if_neg (by omega)]
  rfl

/-! ### What UBX_DECODE does to the state -/

/-- UBX_DECODE completes within its precondition (R95). -/
theorem exec_ubxDecode {S : Bytes} (pre : S.length < 8 ∨ startsSync S = true) (s : State) :
    exec (.ubxDecode S) s = .next { s.writeFrameScratch S with ret := .frame (ubxDecode S) } :=
  if_pos pre

theorem exec_ubxDecode_of_not_sync {S : Bytes} (long : 8 ≤ S.length) (other : startsSync S = false) (s : State) :
    exec (.ubxDecode S) s = .refused .notSyncWord :=
  if_neg (by simp [long, other])

/-! ### The obligation -/

/-- Settles O54: the decoder's cases follow the slice's length, and a whole frame's outcome its two trailing bytes. -/
theorem ubxDecodeNeedsTheSyncWord : Obligations.UbxDecodeNeedsTheSyncWord := by
  intro s S
  refine ⟨fun short => ?_, fun long sync => ?_, fun long other => exec_ubxDecode_of_not_sync long other s⟩
  · rw [exec_ubxDecode (.inl short), writeFrameScratch_of_short short, ubxDecode_of_short short]
  · refine ⟨ubxDecode S, _, exec_ubxDecode (.inr sync) s, rfl, ?_⟩
    rcases Nat.lt_or_ge S.length (8 + (ubxLen S).toNat) with cut | whole
    · rw [writeFrameScratch_of_cut long cut]
      exact ⟨rfl, ubxLen_toNat S, fun _ => ubxDecode_of_cut cut, fun fits => absurd fits (Nat.not_le.mpr cut)⟩
    · rw [writeFrameScratch_of_whole whole, ubxDecode_of_whole whole]
      refine ⟨rfl, ubxLen_toNat S, fun cut => absurd whole (Nat.not_le.mpr cut), fun _ => ⟨rfl, ?_, fun a b => ?_⟩⟩
      · split_ifs with sums
        · simp [sums]
        · simpa [imp_iff_not_or] using sums
      · exact ⟨_, if_pos ⟨a, b⟩, messageParts_ubxMessage _ _ _⟩

end Sys2Proof.Proofs

/-! PROOFS. The scanner of `43_scanner.md`: what each of its operations answers in a running pass, the one form every step of a
pass has (a byte counted, or one result behind a flush), the stream of results that such steps build up, its routing, and the
obligations assembled from these. -/

namespace Sys2Proof.Proofs

open Sys2Proof.Machine

/-! ### The window at the cursor -/

theorem lt_wlen_of_windowByte {s : State} {a : Nat} {b : Byte} (h : windowByte s a = some b) : a < s.wlen := by
  rw [windowByte, Option.ite_none_right_eq_some] at h
  exact h.1

/-- The decoder is offered a sync word exactly where the window holds one at the cursor (R101). -/
theorem startsSync_fetchBytes {s : State} : startsSync (fetchBytes s) = true ↔
    windowByte s s.off = some sync1 ∧ windowByte s (s.off + 1) = some sync2 := by
  rw [startsSync_iff, fetchBytes_getElem?, fetchBytes_getElem?, Nat.add_zero]

/-- The search of R103, in window offsets. -/
theorem terminatorOffset_eq_some {s : State} {k : Nat} (hk : s.off + 1 ≤ k) (bound : k < min s.wlen (s.off + s.maxlen))
    (newline : windowByte s k = some chLF) (least : ∀ m, s.off + 1 ≤ m → m < k → windowByte s m ≠ some chLF) :
    terminatorOffset s = some k := by
  have found : findByte chLF (fetchBytes s) 1 (min (s.wlen - s.off) s.maxlen) = some (k - s.off) := by
    refine findByte_eq_some_iff.mpr ⟨by omega, by omega, ?_, fun m hm hmk => ?_⟩
    · rwa [fetchBytes_getElem?, Nat.add_sub_cancel' (by omega)]
    · rw [fetchBytes_getElem?]
      exact least _ (by omega) (by omega)
  rw [terminatorOffset, found, Option.map_some, Nat.add_sub_cancel' (by omega)]

theorem terminatorOffset_eq_none {s : State}
    (absent : ∀ m, s.off + 1 ≤ m → m < min s.wlen (s.off + s.maxlen) → windowByte s m ≠ some chLF) :
    terminatorOffset s = none := by
  rw [terminatorOffset, Option.map_eq_none_iff, findByte_eq_none_iff]
  intro m hm bound
  rw [fetchBytes_getElem?]
  exact absent _ (by omega) (by omega)

/-- A terminator that is found stands behind the cursor and inside the window. -/
theorem terminatorOffset_bounds {s : State} {k : Nat} (h : terminatorOffset s = some k) : s.off < k ∧ k < s.wlen := by
  obtain ⟨i, hi, rfl⟩ := Option.map_eq_some_iff.mp h
  obtain ⟨low, high, -⟩ := findByte_eq_some_iff.mp hi
  omega

/-! ### What the decoders write and answer -/

/-- NMEA_DECODE writes `x`, `i` and `e` alone. -/
theorem writeSentenceScratch_frame (S : Bytes) (s : State) :
    s.writeSentenceScratch S =
      { s with
        x := (s.writeSentenceScratch S).x
        i := (s.writeSentenceScratch S).i
        e := (s.writeSentenceScratch S).e } := by
  rw [State.writeSentenceScratch, writeFrameMarks_frame]
  split <;> rfl

/-- UBX_DECODE writes `len`, `ckA` and `ckB` alone. -/
theorem writeFrameScratch_frame (S : Bytes) (s : State) :
    s.writeFrameScratch S =
      { s with
        len := (s.writeFrameScratch S).len
        ckA := (s.writeFrameScratch S).ckA
        ckB := (s.writeFrameScratch S).ckB } := by
  unfold State.writeFrameScratch
  (repeat' split) <;> rfl

theorem exec_nmeaDecode (S : Bytes) (s : State) :
    exec (.nmeaDecode S) s = .next { s.writeSentenceScratch S with ret := .sentence (nmeaDecode S) } := rfl

/-- The frame of an accepted message lies within the slice, and its payload is one the length field can declare (R54, R90). -/
theorem messageLen_of_accepted {S : Bytes} {m : UbxMessage} (h : ubxDecode S = .accepted m) :
    messageLen m ≤ 65535 ∧ 8 + messageLen m ≤ S.length := by
  rcases Nat.lt_or_ge S.length (8 + (ubxLen S).toNat) with cut | whole
  · rw [ubxDecode_of_cut cut] at h
    cases h
  · rw [ubxDecode_of_whole whole] at h
    split_ifs at h
    obtain rfl := UbxOutcome.accepted.inj h
    have declared := (ubxLen S).isLt
    simp only [messageLen, messageParts_ubxMessage, slice_length]
    omega

/-! ### What the scanner's operations answer -/

theorem report_eq_after {k : Kind} {c : Nat} {s : State} (h : s.off + c ≤ s.wlen) : report k c s = .next (after k c s) :=
  report_of_le h

theorem exec_flush {s : State} (pass : s.phase = .scanning) : exec .flush s = .next s.flushSkip :=
  inPass_of_scanning pass

theorem exec_scanEnd {s : State} (pass : s.phase = .scanning) (done : s.wlen ≤ s.off) : exec .scanEnd s = .next s.endPass := by
  change execScanEnd s = _
  rw [execScanEnd, inPass_of_scanning pass, if_neg (by omega)]

/-- At the window's end SCAN_END is the end that a step of the pass makes itself (R14, R111). -/
theorem scanEnd_finishes {s : State} (pass : s.phase = .scanning) (done : s.wlen ≤ s.off) :
    exec .scanEnd s = .next s.finishPass ∧ s.finishPass.phase = .idle := by
  rw [finishPass_of_le pass done]
  exact ⟨exec_scanEnd pass done, endPass_phase s⟩

/-- The operation for a candidate of a protocol that the window's end cuts off (R104, R108). -/
def incompleteInstr : Proto → Instr
  | .nmea => .nmeaIncomplete
  | .ubx => .ubxIncomplete

theorem exec_incompleteInstr (p : Proto) {s : State} (pass : s.phase = .scanning) (left : s.off < s.wlen) :
    exec (incompleteInstr p) s =
      .next (after (.incompleteAtBoundary p) (s.wlen - s.off) { s with pm := some p }) := by
  have answer : inPass s (atByte s (report (.incompleteAtBoundary p) (s.wlen - s.off) { s with pm := some p })) =
      .next (after (.incompleteAtBoundary p) (s.wlen - s.off) { s with pm := some p }) := by
    rw [inPass_of_scanning pass, atByte_of_lt left]
    exact report_eq_after (Nat.add_sub_cancel' left.le).le
  cases p <;> exact answer

theorem exec_nmeaOverlong {s : State} (left : passWith 1 s) : exec .nmeaOverlong s = .next (after .malformedSentence 1 s) := by
  change execNmeaOverlong s = _
  rw [execNmeaOverlong, inPass_of_scanning left.1, report_eq_after left.2]

theorem exec_ubxReject {s : State} (f : UbxFailure) (left : passWith 2 s) :
    exec (.ubxReject f) s = .next (after (failureKind f) 2 s) := by
  change execUbxReject f s = _
  rw [execUbxReject, inPass_of_scanning left.1, report_eq_after left.2]

theorem exec_ubxAccept {s : State} {m : UbxMessage} (payload : messageLen m ≤ 65535) (left : passWith (8 + messageLen m) s) :
    exec (.ubxAccept m) s = .next (after (messageKind m) (8 + messageLen m) s) := by
  change execUbxAccept m s = _
  rw [execUbxAccept, inPass_of_scanning left.1, withPayload_of_le payload]
  exact report_eq_after left.2

/-- R106: the decoder's outcome on the span, and the scratch registers as the decoder leaves them. -/
theorem exec_nmeaDispatch {s : State} (pass : s.phase = .scanning) (span : s.off < s.j) (inside : s.j < s.wlen) :
    exec .nmeaDispatch s =
      .next
        { after (nmeaKind (nmeaDecode (foundSpan s))) (s.j + 1 - s.off) s with
          x := (s.writeSentenceScratch (foundSpan s)).x
          i := (s.writeSentenceScratch (foundSpan s)).i
          e := (s.writeSentenceScratch (foundSpan s)).e } := by
  change execNmeaDispatch s = _
  rw [execNmeaDispatch, inPass_of_scanning pass, if_pos span, writeSentenceScratch_frame]
  exact report_eq_after (show s.off + (s.j + 1 - s.off) ≤ s.wlen by omega)

/-! ### The branches of NMEA_SPAN, UBX_SPAN and STEP -/

/-- The operation that deals with an outcome of the frame decoder (R107). -/
def outcomeInstr : UbxOutcome → Instr
  | .accepted m => .ubxAccept m
  | .rejected f => .ubxReject f

section Candidates

variable {s : State} (pass : s.phase = .scanning)

include pass

/-- NMEA_SPAN at a `$`: the three cases of R103, by the search for the terminator. -/
theorem exec_nmeaSpan (dollar : windowByte s s.off = some chDollar) :
    exec .nmeaSpan s =
      (terminatorOffset s).elim
        (if s.wlen ≤ s.off + s.maxlen then exec .nmeaIncomplete s else exec .nmeaOverlong s)
        fun k => exec .nmeaDispatch { s with j := k } := by
  change execNmeaSpan s = _
  rw [execNmeaSpan, inPass_of_scanning pass, atByte_of_lt (lt_wlen_of_windowByte dollar), if_pos dollar]
  cases terminatorOffset s <;> rfl

theorem exec_ubxSpan_of_short (sync : startsSync (fetchBytes s) = true) (short : s.wlen < s.off + 6) :
    exec .ubxSpan s = exec .ubxIncomplete s := by
  have left := lt_wlen_of_windowByte (startsSync_fetchBytes.mp sync).1
  change execUbxSpan s = _
  rw [execUbxSpan, inPass_of_scanning pass, atByte_of_lt left, if_pos sync]
  exact if_pos short

/-- UBX_SPAN with its header in the window (R107). -/
theorem exec_ubxSpan_of_header (sync : startsSync (fetchBytes s) = true) (header : s.off + 6 ≤ s.wlen) :
    exec .ubxSpan s = exec (outcomeInstr (ubxDecode (fetchBytes s))) (s.writeFrameScratch (fetchBytes s)) := by
  have whole : ¬ s.wlen < s.off + ubxHdr := Nat.not_lt.mpr header
  change execUbxSpan s = _
  rw [execUbxSpan, inPass_of_scanning pass, atByte_of_lt (by omega), if_pos sync, if_neg whole]
  cases ubxDecode (fetchBytes s) <;> rfl

theorem exec_step_of_dollar (dollar : windowByte s s.off = some chDollar) : exec .step s = exec .nmeaSpan s.flushSkip := by
  change execStep s = _
  rw [execStep, inPass_of_scanning pass, atByte_of_lt (lt_wlen_of_windowByte dollar), if_pos dollar]
  rfl

theorem exec_step_of_sync (first : windowByte s s.off = some sync1) (second : windowByte s (s.off + 1) = some sync2) :
    exec .step s = exec .ubxSpan s.flushSkip := by
  have other : windowByte s s.off ≠ some chDollar := by rw [first]; decide
  change execStep s = _
  rw [execStep, inPass_of_scanning pass, atByte_of_lt (lt_wlen_of_windowByte first), if_neg other, if_pos ⟨first, second⟩]
  rfl

theorem exec_step_of_other (left : s.off < s.wlen) (not_dollar : windowByte s s.off ≠ some chDollar)
    (not_sync : ¬ (windowByte s s.off = some sync1 ∧ windowByte s (s.off + 1) = some sync2)) :
    exec .step s = .next { s with skip := s.skip + 1, off := s.off + 1 } := by
  change execStep s = _
  rw [execStep, inPass_of_scanning pass, atByte_of_lt left, if_neg not_dollar, if_neg not_sync]

end Candidates

/-! ### The one form of a candidate's outcome -/

/-- `t` is `s` but for `pm` and the scratch registers (R12, R14, R16, R17). -/
def sameButScratch (s t : State) : Prop :=
  t = { s with
    pm := t.pm, x := t.x, ckA := t.ckA, ckB := t.ckB, len := t.len
    j := t.j, i := t.i, e := t.e }

/-- From `s` to `t` a candidate has been reported: one result of kind `k`, neither a run nor `InvalidWindow`, for the next `c` bytes,
at least one and all in the window (R112, R113). -/
structure Reported (k : Kind) (c : Nat) (s t : State) : Prop where
  not_run : k ≠ .unrecognizedBytes
  not_invalid : k ≠ .invalidWindow
  positive : 1 ≤ c
  inside : s.off + c ≤ s.wlen
  frame : sameButScratch (after k c s) t

section ReportedFields

variable {k : Kind} {c : Nat} {s t : State} (h : Reported k c s t)

include h

theorem Reported.phase : t.phase = s.phase := (congrArg State.phase h.frame).trans rfl

theorem Reported.wlen : t.wlen = s.wlen := (congrArg State.wlen h.frame).trans rfl

theorem Reported.off : t.off = s.off + c := (congrArg State.off h.frame).trans rfl

theorem Reported.skip : t.skip = s.skip := (congrArg State.skip h.frame).trans rfl

theorem Reported.results : t.results = s.results ++ [⟨k, c⟩] := (congrArg State.results h.frame).trans rfl

end ReportedFields

theorem nmeaKind_isItem (o : NmeaOutcome) : nmeaKind o ≠ .unrecognizedBytes ∧ nmeaKind o ≠ .invalidWindow := by
  cases o <;> simp [nmeaKind]

theorem messageKind_isItem (m : UbxMessage) : messageKind m ≠ .unrecognizedBytes ∧ messageKind m ≠ .invalidWindow := by
  cases m <;> simp [messageKind]

theorem failureKind_isItem (f : UbxFailure) : failureKind f ≠ .unrecognizedBytes ∧ failureKind f ≠ .invalidWindow := by
  cases f <;> simp [failureKind]

theorem sameButScratch_writeFrameScratch (k : Kind) (c : Nat) (S : Bytes) (s : State) :
    sameButScratch (after k c s) (after k c (s.writeFrameScratch S)) := by
  rw [writeFrameScratch_frame]
  rfl

theorem passWith_writeFrameScratch {n : Nat} {s : State} (S : Bytes) (h : passWith n s) :
    passWith n (s.writeFrameScratch S) := by
  simpa only [passWith, writeFrameScratch_phase, writeFrameScratch_off, writeFrameScratch_wlen] using h

section CandidatesComplete

variable {s : State} (pass : s.phase = .scanning)

include pass

/-- NMEA_SPAN at a `$` completes with one result, in each case of R103. -/
theorem nmeaSpan_reports (dollar : windowByte s s.off = some chDollar) :
    ∃ t k c, exec .nmeaSpan s = .next t ∧ Reported k c s t := by
  have left := lt_wlen_of_windowByte dollar
  rw [exec_nmeaSpan pass dollar]
  cases search : terminatorOffset s with
  | some j =>
    obtain ⟨span, inside⟩ := terminatorOffset_bounds search
    obtain ⟨not_run, not_invalid⟩ := nmeaKind_isItem (nmeaDecode (foundSpan { s with j := j }))
    exact ⟨_, _, _, exec_nmeaDispatch (s := { s with j := j }) pass span inside, not_run, not_invalid,
      show 1 ≤ j + 1 - s.off by omega, show s.off + (j + 1 - s.off) ≤ s.wlen by omega, rfl⟩
  | none =>
    rw [Option.elim_none]
    split_ifs
    · exact ⟨_, _, _, exec_incompleteInstr .nmea pass left, by simp, by simp, by omega, by omega, rfl⟩
    · exact ⟨_, _, _, exec_nmeaOverlong ⟨pass, left⟩, by simp, by simp, le_rfl, left, rfl⟩

/-- UBX_SPAN at a sync word completes with one result, in each case of R107. -/
theorem ubxSpan_reports (sync : startsSync (fetchBytes s) = true) :
    ∃ t k c, exec .ubxSpan s = .next t ∧ Reported k c s t := by
  have left := lt_wlen_of_windowByte (startsSync_fetchBytes.mp sync).1
  rcases Nat.lt_or_ge s.wlen (s.off + 6) with short | header
  · rw [exec_ubxSpan_of_short pass sync short]
    exact ⟨_, _, _, exec_incompleteInstr .ubx pass left, by simp, by simp, by omega, by omega, rfl⟩
  · rw [exec_ubxSpan_of_header pass sync header]
    cases decoded : ubxDecode (fetchBytes s) with
    | accepted m =>
      obtain ⟨payload, fits⟩ := messageLen_of_accepted decoded
      rw [fetchBytes_length] at fits
      have room : passWith (8 + messageLen m) s := ⟨pass, by omega⟩
      obtain ⟨not_run, not_invalid⟩ := messageKind_isItem m
      exact ⟨_, _, _, exec_ubxAccept payload (passWith_writeFrameScratch _ room), not_run, not_invalid, by omega, room.2,
        sameButScratch_writeFrameScratch _ _ _ s⟩
    | rejected f =>
      have room : passWith 2 s := ⟨pass, by omega⟩
      obtain ⟨not_run, not_invalid⟩ := failureKind_isItem f
      exact ⟨_, _, _, exec_ubxReject f (passWith_writeFrameScratch _ room), not_run, not_invalid, by omega, room.2,
        sameButScratch_writeFrameScratch _ _ _ s⟩

/-- STEP at a `$` flushes and completes as NMEA_SPAN. -/
theorem step_at_dollar_reports (dollar : windowByte s s.off = some chDollar) :
    ∃ t k c, exec .step s = .next t ∧ exec .nmeaSpan s.flushSkip = .next t ∧ Reported k c s.flushSkip t := by
  have dollar' : windowByte s.flushSkip s.flushSkip.off = some chDollar := by
    rwa [windowByte_congr (flushSkip_mem s) (flushSkip_wlen s), flushSkip_off]
  obtain ⟨t, k, c, ht, h⟩ := nmeaSpan_reports ((flushSkip_phase s).trans pass) dollar'
  exact ⟨t, k, c, (exec_step_of_dollar pass dollar).trans ht, ht, h⟩

/-- STEP at a sync word flushes and completes as UBX_SPAN. -/
theorem step_at_sync_reports (first : windowByte s s.off = some sync1) (second : windowByte s (s.off + 1) = some sync2) :
    ∃ t k c, exec .step s = .next t ∧ exec .ubxSpan s.flushSkip = .next t ∧ Reported k c s.flushSkip t := by
  have sync' : startsSync (fetchBytes s.flushSkip) = true := by
    rw [fetchBytes_congr (flushSkip_mem s) (flushSkip_wlen s) (flushSkip_off s)]
    exact startsSync_fetchBytes.mpr ⟨first, second⟩
  obtain ⟨t, k, c, ht, h⟩ := ubxSpan_reports ((flushSkip_phase s).trans pass) sync'
  exact ⟨t, k, c, (exec_step_of_sync pass first second).trans ht, ht, h⟩

end CandidatesComplete

/-- What STEP can do (R101): count a byte, or flush and report a candidate. -/
inductive Stepped (s : State) : State → Prop where
  | counted (left : s.off < s.wlen) : Stepped s { s with skip := s.skip + 1, off := s.off + 1 }
  | reported {k : Kind} {c : Nat} {t : State} (h : Reported k c s.flushSkip t) : Stepped s t

/-- STEP completes at every byte of a running pass, in one of its two forms. -/
theorem step_stepped {s : State} (pass : s.phase = .scanning) (left : s.off < s.wlen) :
    ∃ t, exec .step s = .next t ∧ Stepped s t := by
  by_cases dollar : windowByte s s.off = some chDollar
  · obtain ⟨t, _, _, ht, -, h⟩ := step_at_dollar_reports pass dollar
    exact ⟨t, ht, .reported h⟩
  · by_cases sync : windowByte s s.off = some sync1 ∧ windowByte s (s.off + 1) = some sync2
    · obtain ⟨t, _, _, ht, -, h⟩ := step_at_sync_reports pass sync.1 sync.2
      exact ⟨t, ht, .reported h⟩
    · exact ⟨_, exec_step_of_other pass left dollar sync, .counted left⟩

/-! ### Streams of results -/

@[simp] theorem consumedSum_append (R R' : List Result) : consumedSum (R ++ R') = consumedSum R + consumedSum R' := by
  simp [consumedSum]

@[simp] theorem consumedSum_singleton (r : Result) : consumedSum [r] = r.consumed := by
  simp [consumedSum]

@[simp] theorem noRunLast_concat (R : List Result) (r : Result) : noRunLast (R ++ [r]) = !isRun r := by
  simp [noRunLast]

/-- A result may follow a stream unless it is a run behind a run (R102). -/
theorem runsSeparated_concat (R : List Result) (r : Result) :
    runsSeparated (R ++ [r]) = (runsSeparated R && (noRunLast R || !isRun r)) := by
  induction R with
  | nil => rfl
  | cons a R ih =>
    cases R with
    | nil => simp [runsSeparated, noRunLast]
    | cons b R =>
      have last : noRunLast (a :: b :: R) = noRunLast (b :: R) := by simp only [noRunLast, List.getLast?_cons_cons]
      rw [List.cons_append, List.cons_append, runsSeparated, ← List.cons_append, ih, last, runsSeparated, Bool.and_assoc]

theorem isRun_eq_false {k : Kind} {c : Nat} (h : k ≠ .unrecognizedBytes) : isRun ⟨k, c⟩ = false :=
  beq_eq_false_iff_ne.mpr h

theorem resultSound_of_positive {k : Kind} {c : Nat} (hk : k ≠ .invalidWindow) (hc : 1 ≤ c) : resultSound ⟨k, c⟩ = true := by
  cases k with
  | invalidWindow => exact absurd rfl hk
  | _ => exact decide_eq_true hc

/-- The stream accounts for `n` bytes in the way of R112 and R102. -/
def accountsFor (n : Nat) (R : List Result) : Prop :=
  consumedSum R = n ∧ R.all resultSound = true ∧ runsSeparated R = true

theorem accountsFor_nil : accountsFor 0 [] := ⟨rfl, rfl, rfl⟩

/-- One more sound result accounts for its own bytes, if it is no run behind a run. -/
theorem accountsFor_concat {n : Nat} {R : List Result} {r : Result} (h : accountsFor n R) (sound : resultSound r = true)
    (apart : noRunLast R = true ∨ isRun r = false) : accountsFor (n + r.consumed) (R ++ [r]) := by
  obtain ⟨sum, all, separated⟩ := h
  refine ⟨by simp [sum], by simp [all, sound], ?_⟩
  rw [runsSeparated_concat, separated]
  rcases apart with h | h <;> simp [h]

/-! ### The stream of a running pass -/

/-- In a running pass the stream, with the pending run, accounts for the bytes behind the cursor, and no run stands last in it (R13,
R102, R112). -/
structure CursorAccounted (s : State) : Prop where
  pass : s.phase = .scanning
  inside : s.off ≤ s.wlen
  stream : ∃ n, accountsFor n s.results ∧ s.off = n + s.skip
  pending : noRunLast s.results = true

/-- Behind a flush the stream alone accounts for the bytes behind the cursor (R102). -/
theorem CursorAccounted.flushed {s : State} (h : CursorAccounted s) : accountsFor s.off s.flushSkip.results := by
  obtain ⟨n, stream, cursor⟩ := h.stream
  rw [flushSkip_results, cursor]
  split_ifs with run
  · exact accountsFor_concat stream (resultSound_of_positive (by simp) run) (.inl h.pending)
  · rw [List.append_nil, Nat.eq_zero_of_not_pos run]
    exact stream

/-- Every step keeps the account. -/
theorem CursorAccounted.stepped {s t : State} (h : CursorAccounted s) (st : Stepped s t) :
    CursorAccounted t ∧ t.wlen = s.wlen := by
  cases st with
  | counted left =>
    obtain ⟨n, stream, cursor⟩ := h.stream
    exact ⟨⟨h.pass, left, ⟨n, stream, show s.off + 1 = n + (s.skip + 1) by omega⟩, h.pending⟩, rfl⟩
  | @reported k c _ r =>
    have not_run : isRun ⟨k, c⟩ = false := isRun_eq_false r.not_run
    have window : t.wlen = s.wlen := r.wlen.trans (flushSkip_wlen s)
    have cursor : t.off = s.off + c := r.off.trans (by rw [flushSkip_off])
    have stream : accountsFor (s.off + c) t.results := by
      rw [r.results]
      exact accountsFor_concat h.flushed (resultSound_of_positive r.not_invalid r.positive) (.inr not_run)
    refine ⟨⟨?_, ?_, ⟨_, stream, ?_⟩, ?_⟩, window⟩
    · rw [r.phase, flushSkip_phase, h.pass]
    · rw [r.off, window, ← flushSkip_wlen s]
      exact r.inside
    · rw [cursor, r.skip, flushSkip_skip, Nat.add_zero]
    · rw [r.results, noRunLast_concat, not_run, Bool.not_false]

/-- SCAN_END is reached only at the window's end, so the flushed stream accounts for the window (R111, R112). -/
theorem CursorAccounted.scanEnd {s t : State} (h : CursorAccounted s) (he : execScanEnd s = .next t) :
    accountsFor s.wlen t.results := by
  rw [execScanEnd, inPass_of_scanning h.pass] at he
  split_ifs at he with left
  obtain rfl := Host.Outcome.next.inj he
  have at_end : s.wlen = s.off := le_antisymm (Nat.not_lt.mp left) h.inside
  rw [endPass_results, at_end]
  exact h.flushed

theorem scanLoop_accountsFor {fuel : Nat} {s t : State} (h : CursorAccounted s) (hrun : scanLoop fuel s = .next t) :
    accountsFor s.wlen t.results := by
  induction fuel generalizing s with
  | zero => exact h.scanEnd hrun
  | succ fuel ih =>
    rw [scanLoop] at hrun
    split_ifs at hrun with left
    · obtain ⟨u, hu, st⟩ := step_stepped h.pass left
      obtain ⟨kept, window⟩ := h.stepped st
      rw [show execStep s = .next u from hu] at hrun
      rw [← window]
      exact ih kept hrun
    · exact h.scanEnd hrun

/-! ### Routing -/

/-- A result that is no fix has none to deliver. -/
theorem fixOf_eq_none {r : Result} (h : ∀ p, r.kind ≠ .positionFix p) : fixOf r = none := by
  unfold fixOf
  split
  · exact absurd ‹_› (h _)
  · rfl

theorem positionSink_append (R R' : List Result) : positionSink (R ++ R') = positionSink R ++ positionSink R' := by
  simp only [positionSink, List.filterMap_append, List.map_append]

theorem diagnosticsSink_append (R R' : List Result) :
    diagnosticsSink (R ++ R') = diagnosticsSink R ++ diagnosticsSink R' := by
  unfold diagnosticsSink diagnostics
  split_ifs
  · exact List.filter_append ..
  · rfl

/-! ### The obligations -/

/-- Settles O15: START begins with nothing read and nothing reported, every step keeps the account, and SCAN_END closes it. -/
theorem scanAccountsForEveryByte : Obligations.ScanAccountsForEveryByte := by
  intro s t w idle ht
  change execScan w s = _ at ht
  rw [execScan, idle] at ht
  rcases startPass_cases w s with ⟨hw, hs⟩ | ⟨b, bs, rfl, hs⟩
  · simp only [hs, emit_phase, idle] at ht
    obtain rfl := Host.Outcome.next.inj ht
    rcases hw with rfl | rfl <;> exact ⟨rfl, rfl, rfl⟩
  · simp only [hs] at ht
    exact scanLoop_accountsFor ⟨rfl, Nat.zero_le _, ⟨0, accountsFor_nil, rfl⟩, rfl⟩ ht

/-- Settles O20: the three branches of STEP, and the completion of the span rules behind the flush. -/
theorem stepDispatchesOnTheByte : Obligations.StepDispatchesOnTheByte := by
  intro s b pass hb
  refine ⟨_, exec_flush pass, ?_, ?_, fun not_dollar not_sync => ?_⟩
  · rintro rfl
    obtain ⟨t, _, _, step, span, -⟩ := step_at_dollar_reports pass hb
    exact ⟨t, step, span⟩
  · rintro rfl second
    obtain ⟨t, _, _, step, span, -⟩ := step_at_sync_reports pass hb second
    exact ⟨t, step, span⟩
  · refine exec_step_of_other pass (lt_wlen_of_windowByte hb) (fun h => not_dollar ?_) (fun h => not_sync ?_ h.2)
    · exact Option.some.inj (hb.symm.trans h)
    · exact Option.some.inj (hb.symm.trans h.1)

/-- Settles O21: R103's search decides the case, and NMEA_SPAN completes in each. -/
theorem nmeaSpanFindsTheFirstTerminator : Obligations.NmeaSpanFindsTheFirstTerminator := by
  intro s pass dollar
  obtain ⟨t, _, _, ht, -⟩ := nmeaSpan_reports pass dollar
  have branch := exec_nmeaSpan pass dollar
  refine ⟨fun k hk bound newline least => ?_, fun absent => ?_⟩
  · rw [terminatorOffset_eq_some hk bound newline least, Option.elim_some] at branch
    exact ⟨t, ht, branch.symm.trans ht⟩
  · rw [terminatorOffset_eq_none absent, Option.elim_none] at branch
    refine ⟨fun cut => ?_, fun long => ?_⟩
    · rw [if_pos cut] at branch
      exact ⟨t, ht, branch.symm.trans ht⟩
    · rw [if_neg (Nat.not_le.mpr long)] at branch
      exact ⟨t, ht, branch.symm.trans ht⟩

/-- Settles O24: the span handed to the decoder is the span consumed. -/
theorem nmeaDispatchConsumesTheSpan : Obligations.NmeaDispatchConsumesTheSpan := by
  intro s pass span inside
  exact ⟨_, _, exec_nmeaDecode _ s, rfl, exec_nmeaDispatch pass span inside⟩

/-- Settles O25: the header test, and behind it the decoder's outcome on everything up to the window's end. -/
theorem ubxSpanChecksTheHeaderFirst : Obligations.UbxSpanChecksTheHeaderFirst := by
  intro s pass first second
  have sync : startsSync (fetchBytes s) = true := startsSync_fetchBytes.mpr ⟨first, second⟩
  obtain ⟨t, _, _, ht, -⟩ := ubxSpan_reports pass sync
  refine ⟨fun short => ⟨t, ht, (exec_ubxSpan_of_short pass sync short).symm.trans ht⟩, fun header => ?_⟩
  have answer := (exec_ubxSpan_of_header pass sync header).symm.trans ht
  rw [writeFrameScratch_frame] at answer
  refine ⟨_, _, t, exec_ubxDecode (.inr sync) s, rfl, ht, fun m accepted => ?_, fun f rejected => ?_⟩
  · rwa [accepted] at answer
  · rwa [rejected] at answer

/-- Settles O19: the two cases of the flush. -/
theorem flushReportsThePendingRun : Obligations.FlushReportsThePendingRun := by
  intro s pass
  refine ⟨fun run => ?_, fun no_run => ?_⟩
  · rw [exec_flush pass, State.flushSkip, if_pos run]
    rfl
  · rw [exec_flush pass, flushSkip_of_zero no_run]

/-- Settles O22: the rest of the window is the distance of the cursor from its end, so SCAN_END finds the pass over. -/
theorem incompleteItemsEndThePass : Obligations.IncompleteItemsEndThePass := by
  intro s i p pass left item
  have rest : s.off + (s.wlen - s.off) = s.wlen := Nat.add_sub_cancel' left.le
  have answer : exec i s = .next (after (.incompleteAtBoundary p) (s.wlen - s.off) { s with pm := some p }) := by
    rcases item with ⟨rfl, rfl⟩ | ⟨rfl, rfl⟩
    · exact exec_incompleteInstr .nmea pass left
    · exact exec_incompleteInstr .ubx pass left
  exact ⟨_, answer, by simp only [after, rest], scanEnd_finishes pass rest.ge⟩

/-- Settles O23: both operations are one report. -/
theorem rejectedCandidatesResumeBehindTheirStart : Obligations.RejectedCandidatesResumeBehindTheirStart :=
  fun _ => ⟨exec_nmeaOverlong, fun left => ⟨exec_ubxReject _ left, exec_ubxReject _ left⟩⟩

/-- Settles O60: each sink is a filter of the stream, and `fixOf` sends a result to one of them. -/
theorem everyResultIsRoutedOnce : Obligations.EveryResultIsRoutedOnce := by
  refine ⟨fun R R' => ⟨positionSink_append R R', diagnosticsSink_append R R'⟩, fun p c => ⟨rfl, ite_self _⟩,
    fun r other => ⟨?_, ?_⟩⟩
  · simp [positionSink, fixOf_eq_none other]
  · simp [diagnosticsSink, diagnostics, fixOf_eq_none other]

end Sys2Proof.Proofs

/-! PROOFS. The command builder of `44_command_builder.md`: the parts of a built frame, the frame through the decoder, what BUILD and
the seven commands do to the state, and the obligations assembled from these. -/

namespace Sys2Proof.Proofs

open Sys2Proof.Machine

/-! ### The parts of a built frame -/

@[simp] theorem ubxBody_length (cls id : Byte) (P : Bytes) : (ubxBody cls id P).length = 4 + P.length :=
  List.length_append

/-- R120: the sync word, the bytes the checksum covers, the checksum pair. -/
theorem build_eq_append (cls id : Byte) (P : Bytes) :
    build cls id P =
      [sync1, sync2] ++ (ubxBody cls id P ++ [(ubxCk (ubxBody cls id P)).1, (ubxCk (ubxBody cls id P)).2]) := rfl

@[simp] theorem build_length (cls id : Byte) (P : Bytes) : (build cls id P).length = 8 + P.length := by
  simp only [build_eq_append, List.length_append, ubxBody_length, List.length_cons, List.length_nil]
  omega

theorem slice_build_covered (cls id : Byte) (P : Bytes) : slice (build cls id P) 2 (6 + P.length) = ubxBody cls id P := by
  have covered := slice_of_append [sync1, sync2] (ubxBody cls id P)
    [(ubxCk (ubxBody cls id P)).1, (ubxCk (ubxBody cls id P)).2]
  rw [ubxBody_length, ← Nat.add_assoc] at covered
  exact covered

theorem slice_build_payload (cls id : Byte) (P : Bytes) : slice (build cls id P) 6 (6 + P.length) = P :=
  slice_of_append
    [sync1, sync2, cls, id, BitVec.ofNat 8 (P.length % 256), BitVec.ofNat 8 (P.length / 256)] P
    [(ubxCk (ubxBody cls id P)).1, (ubxCk (ubxBody cls id P)).2]

/-- The two bytes behind what the checksum covers are the checksum (R54). -/
theorem build_getElem?_checksum (cls id : Byte) (P : Bytes) :
    (build cls id P)[6 + P.length]? = some (ubxCk (ubxBody cls id P)).1 ∧
    (build cls id P)[7 + P.length]? = some (ubxCk (ubxBody cls id P)).2 := by
  have front : ([sync1, sync2] ++ ubxBody cls id P).length = 6 + P.length := by
    rw [List.length_append, ubxBody_length, ← Nat.add_assoc]
    rfl
  rw [build_eq_append, ← List.append_assoc]
  constructor
  · rw [List.getElem?_append_right (by omega), front, Nat.sub_self]
    rfl
  · rw [List.getElem?_append_right (by omega), front, Nat.add_sub_add_right]
    rfl

theorem lenBytes_toNat {n : Nat} (declarable : n ≤ 65535) :
    (BitVec.ofNat 8 (n % 256)).toNat = n % 256 ∧ (BitVec.ofNat 8 (n / 256)).toNat = n / 256 := by
  simp only [BitVec.toNat_ofNat]
  omega

/-- The length field declares the payload (R54, R120). -/
theorem build_declares (cls id : Byte) {P : Bytes} (declarable : P.length ≤ 65535) :
    ((build cls id P).getD 4 0x00#8).toNat + 256 * ((build cls id P).getD 5 0x00#8).toNat = P.length := by
  obtain ⟨low, high⟩ := lenBytes_toNat declarable
  calc ((build cls id P).getD 4 0x00#8).toNat + 256 * ((build cls id P).getD 5 0x00#8).toNat
      = (BitVec.ofNat 8 (P.length % 256)).toNat + 256 * (BitVec.ofNat 8 (P.length / 256)).toNat := rfl
    _ = P.length % 256 + 256 * (P.length / 256) := by rw [low, high]
    _ = P.length := Nat.mod_add_div _ _

/-! ### A built frame through the decoder -/

theorem ubxLen_build (cls id : Byte) {P : Bytes} (declarable : P.length ≤ 65535) :
    (ubxLen (build cls id P)).toNat = P.length := by
  rw [ubxLen_toNat, build_declares cls id declarable]

/-- The decoder accepts a built frame and finds its triple (R90, R120). -/
theorem ubxDecode_build (cls id : Byte) {P : Bytes} (declarable : P.length ≤ 65535) :
    ubxDecode (build cls id P) = .accepted (ubxMessage cls id P) := by
  have len := ubxLen_build cls id declarable
  have covered : ubxCovered (build cls id P) = ubxBody cls id P := by
    rw [ubxCovered, len, slice_build_covered]
  rw [ubxDecode_of_whole (by rw [len, build_length]), len, covered, if_pos (build_getElem?_checksum cls id P),
    slice_build_payload]
  rfl

/-! ### What BUILD and the commands do to the state -/

theorem exec_build {P : Bytes} (declarable : P.length ≤ 65535) (cls id : Byte) (s : State) :
    exec (.build cls id P) s = .next { s with
      ckA := (ubxCk (ubxBody cls id P)).1, ckB := (ubxCk (ubxBody cls id P)).2, ret := .bytes (build cls id P) } :=
  withPayload_of_le declarable

theorem exec_romRead (k : Fin 7) (s : State) :
    exec (.romRead k) s = .next { s with ret := .bytes (romFrameBytes (romFrame s.rom k)) } := rfl

/-- The seven commands in the index order of R121 to R127. -/
def commandAt : Fin 7 → Instr
  | 0 => .cmdDisableGll
  | 1 => .cmdDisableVtg
  | 2 => .cmdDisableGsv
  | 3 => .cmdDisableGsa
  | 4 => .cmdSetNavmode
  | 5 => .cmdSetLed
  | 6 => .cmdPollStop

/-- A command hands over the ROM's frame of its index (R129). -/
theorem exec_commandAt (k : Fin 7) (s : State) : exec (commandAt k) s = exec (.romRead k) s := by
  fin_cases k <;> rfl

/-- What a command hands over is known where the ROM is the constant one (R27). -/
theorem exec_commandAt_of_frame {s : State} (rom : s.rom = romContents) (k : Fin 7) {F : Bytes}
    (frame : romFrameBytes (romFrame romContents k) = F) : exec (commandAt k) s = .next { s with ret := .bytes F } := by
  rw [exec_commandAt, exec_romRead, rom, frame]

/-! ### The frames of the ROM -/

theorem openPayload_length_le (c : OpenCmd) : (Config.openPayload c).length ≤ 65535 := by
  have width := (Config.openLen c).isLt
  rw [Config.openPayload, List.length_map, List.length_range]
  omega

/-- Each frame of the ROM is BUILD of a triple (R121 to R127), whatever the open parameters are. -/
theorem romFrameBytes_eq_build (k : Fin 7) :
    ∃ cls id P, P.length ≤ 65535 ∧ romFrameBytes (romFrame romContents k) = build cls id P := by
  have disable (msg : Byte) : (disablePayload msg).length ≤ 65535 := by simp [disablePayload]
  match k with
  | 0 | 1 | 2 | 3 => exact ⟨_, _, _, disable _, rfl⟩
  | 4 => exact ⟨_, _, _, openPayload_length_le .navMode, rfl⟩
  | 5 => exact ⟨_, _, _, openPayload_length_le .led, rfl⟩
  | 6 => exact ⟨_, _, _, openPayload_length_le .pollStop, rfl⟩

/-! ### The obligations -/

/-- Settles O58: a command and ROM_READ of its index hand over the same frame. -/
theorem romReadFollowsTheIndexOrder : Obligations.RomReadFollowsTheIndexOrder := fun s =>
  have same (k : Fin 7) : exec (.romRead k) s = exec (commandAt k) s := (exec_commandAt k s).symm
  ⟨same 0, same 1, same 2, same 3, same 4, same 5, same 6, fun k => ⟨_, exec_romRead k s⟩⟩

/-- Settles O57: each command hands over its frame of the constant ROM; the bytes of the four DISABLE frames are BUILD evaluated. -/
theorem commandFramesByName : Obligations.CommandFramesByName := fun _ rom =>
  ⟨exec_commandAt_of_frame rom 0 (by decide), exec_commandAt_of_frame rom 1 (by decide),
    exec_commandAt_of_frame rom 2 (by decide), exec_commandAt_of_frame rom 3 (by decide),
    exec_commandAt_of_frame rom 4 rfl, exec_commandAt_of_frame rom 5 rfl, exec_commandAt_of_frame rom 6 rfl⟩

/-- Settles O56: BUILD writes the frame as its rule does, and each check of UBX_DECODE passes on the frame's own parts. -/
theorem builtFrameDecodesToItsTriple : Obligations.BuiltFrameDecodesToItsTriple := by
  intro s cls id P declarable
  obtain ⟨low, high⟩ := lenBytes_toNat declarable
  exact ⟨_, _, _, _, low, high, rfl, exec_build declarable cls id s,
    _, ubxDecode_build cls id declarable, messageParts_ubxMessage cls id P⟩

/-- Settles O59: a fact about every built frame, and each frame of the ROM is one. -/
theorem romFramesCarryTheirChecksum : Obligations.RomFramesCarryTheirChecksum := by
  intro k
  obtain ⟨cls, id, P, declarable, frame⟩ := romFrameBytes_eq_build k
  have covered : 8 + P.length - 2 = 6 + P.length := by omega
  have last : 8 + P.length - 1 = 7 + P.length := by omega
  obtain ⟨ckA, ckB⟩ := build_getElem?_checksum cls id P
  refine ⟨build cls id P, 8 + P.length, frame.symm, build_length cls id P, Nat.le_add_right _ _, rfl, ?_, ?_⟩
  · rw [build_declares cls id declarable, Nat.add_sub_cancel_left]
  · rw [covered, last, slice_build_covered, List.getD_eq_getElem?_getD, List.getD_eq_getElem?_getD, ckA, ckB]
    rfl

end Sys2Proof.Proofs

/-! PROOFS. Frames on the wire (R54, R55, R90 to R93): a whole frame with any two trailing bytes, what the decoder makes of it, and
the obligations about accepted, cut and corrupted frames assembled from that. -/

namespace Sys2Proof.Proofs

open Sys2Proof.Machine

/-! ### The declared length -/

/-- The length field stands in the first six bytes. -/
theorem ubxLen_take {S : Bytes} {n : Nat} (h : 6 ≤ n) : ubxLen (S.take n) = ubxLen S := by
  have read (k : Nat) (hk : k < 6) : (S.take n).getD k 0x00#8 = S.getD k 0x00#8 := by
    rw [List.getD_eq_getElem?_getD, List.getElem?_take_of_lt (by omega), List.getD_eq_getElem?_getD]
  rw [ubxLen, read 4 (by omega), read 5 (by omega), ubxLen]

theorem startsSync_append {S : Bytes} (h : startsSync S = true) (rest : Bytes) : startsSync (S ++ rest) = true := by
  obtain ⟨first, second⟩ := startsSync_iff.mp h
  rw [startsSync_iff, List.getElem?_append_left (List.getElem?_eq_some_iff.mp first).1,
    List.getElem?_append_left (List.getElem?_eq_some_iff.mp second).1]
  exact ⟨first, second⟩

theorem startsSync_take {S : Bytes} (h : startsSync S = true) {n : Nat} (hn : 2 ≤ n) : startsSync (S.take n) = true := by
  rw [startsSync_iff, List.getElem?_take_of_lt (by omega), List.getElem?_take_of_lt (by omega)]
  exact startsSync_iff.mp h

/-! ### A whole frame with any two trailing bytes -/

/-- A frame whose two trailing bytes need not be its checksum (R54). -/
def frameWith (cls id : Byte) (P : Bytes) (a b : Byte) : Bytes := [sync1, sync2] ++ (ubxBody cls id P ++ [a, b])

theorem build_eq_frameWith (cls id : Byte) (P : Bytes) :
    build cls id P = frameWith cls id P (ubxCk (ubxBody cls id P)).1 (ubxCk (ubxBody cls id P)).2 := rfl

@[simp] theorem frameWith_length (cls id : Byte) (P : Bytes) (a b : Byte) : (frameWith cls id P a b).length = 8 + P.length := by
  simp only [frameWith, List.length_append, ubxBody_length, List.length_cons, List.length_nil]
  omega

/-- The bytes of a frame, one by one around the payload, with anything behind them. -/
theorem frameWith_append (cls id : Byte) (P : Bytes) (a b : Byte) (rest : Bytes) :
    frameWith cls id P a b ++ rest =
      [sync1, sync2, cls, id, BitVec.ofNat 8 (P.length % 256), BitVec.ofNat 8 (P.length / 256)] ++ (P ++ (a :: b :: rest)) := by
  simp [frameWith, ubxBody]

theorem ubxLen_frameWith (cls id a b : Byte) {P : Bytes} (declarable : P.length ≤ 65535) (rest : Bytes) :
    (ubxLen (frameWith cls id P a b ++ rest)).toNat = P.length := by
  obtain ⟨low, high⟩ := lenBytes_toNat declarable
  rw [ubxLen_toNat]
  calc _ = (BitVec.ofNat 8 (P.length % 256)).toNat + 256 * (BitVec.ofNat 8 (P.length / 256)).toNat := rfl
    _ = P.length := by rw [low, high, Nat.mod_add_div]

/-- The decoder compares the two trailing bytes with the sums and looks at nothing behind them (R90). -/
theorem ubxDecode_frameWith (cls id a b : Byte) {P : Bytes} (declarable : P.length ≤ 65535) (rest : Bytes) :
    ubxDecode (frameWith cls id P a b ++ rest) =
      if a = (ubxCk (ubxBody cls id P)).1 ∧ b = (ubxCk (ubxBody cls id P)).2 then .accepted (ubxMessage cls id P)
      else .rejected .checksumMismatch := by
  have len := ubxLen_frameWith cls id a b declarable rest
  have covered : ubxCovered (frameWith cls id P a b ++ rest) = ubxBody cls id P := by
    have middle := slice_of_append [sync1, sync2] (ubxBody cls id P) ([a, b] ++ rest)
    rw [ubxBody_length, ← Nat.add_assoc] at middle
    rw [ubxCovered, len, frameWith, List.append_assoc, List.append_assoc]
    exact middle
  have trailing (k : Nat) : (frameWith cls id P a b ++ rest)[6 + P.length + k]? = (a :: b :: rest)[k]? := by
    rw [frameWith_append, ← List.append_assoc, List.getElem?_append_right (by simp; omega)]
    congr 1
    simp
    omega
  have payload : slice (frameWith cls id P a b ++ rest) 6 (6 + P.length) = P := by
    rw [frameWith_append]
    exact slice_of_append [sync1, sync2, cls, id, _, _] P _
  have ckA : (frameWith cls id P a b ++ rest)[6 + P.length]? = some a := trailing 0
  have ckB : (frameWith cls id P a b ++ rest)[7 + P.length]? = some b := by
    rw [show 7 + P.length = 6 + P.length + 1 by omega]
    exact trailing 1
  rw [ubxDecode_of_whole (by simp [len]), len, covered, payload, ckA, ckB]
  simp only [Option.some.injEq]
  rfl

theorem exists_header {S : Bytes} (h : 6 ≤ S.length) : ∃ s1 s2 cls id lo hi T, S = s1 :: s2 :: cls :: id :: lo :: hi :: T :=
  match S, h with
  | s1 :: s2 :: cls :: id :: lo :: hi :: T, _ => ⟨s1, s2, cls, id, lo, hi, T, rfl⟩

theorem exists_trailing {S : Bytes} (h : 2 ≤ S.length) : ∃ a b rest, S = a :: b :: rest :=
  match S, h with
  | a :: b :: rest, _ => ⟨a, b, rest, rfl⟩

/-- A slice that holds the frame it declares is such a frame, followed by any bytes. -/
theorem exists_frameWith {S : Bytes} (sync : startsSync S = true) (whole : 8 + (ubxLen S).toNat ≤ S.length) :
    ∃ cls id P a b rest, P.length ≤ 65535 ∧ S = frameWith cls id P a b ++ rest := by
  have declared := (ubxLen S).isLt
  have len := ubxLen_toNat S
  obtain ⟨first, second⟩ := startsSync_iff.mp sync
  obtain ⟨s1, s2, cls, id, lo, hi, T, rfl⟩ := exists_header (by omega : 6 ≤ S.length)
  obtain rfl := Option.some.inj first
  obtain rfl := Option.some.inj second
  generalize (ubxLen _).toNat = n at declared len whole
  replace len : n = lo.toNat + 256 * hi.toNat := len
  have low : BitVec.ofNat 8 (n % 256) = lo := by
    have := lo.isLt
    rw [BitVec.toNat_eq, BitVec.toNat_ofNat]
    omega
  have high : BitVec.ofNat 8 (n / 256) = hi := by
    have := lo.isLt
    have := hi.isLt
    rw [BitVec.toNat_eq, BitVec.toNat_ofNat]
    omega
  simp only [List.length_cons] at whole
  obtain ⟨a, b, rest, behind⟩ := exists_trailing (S := T.drop n) (by rw [List.length_drop]; omega)
  have payload : (T.take n).length = n := by rw [List.length_take]; omega
  refine ⟨cls, id, T.take n, a, b, rest, by omega, ?_⟩
  rw [frameWith_append, payload, low, high, ← behind, List.take_append_drop]
  rfl

/-! ### Messages -/

theorem messageWellFormed_iff {m : UbxMessage} :
    messageWellFormed m = true ↔
      messageLen m ≤ 65535 ∧ ubxMessage (messageParts m).1 (messageParts m).2.1 (messageParts m).2.2 = m := by
  simp [messageWellFormed]

/-- R90 accepts exactly the frames of well-formed messages. -/
theorem ubxDecode_eq_accepted_iff {S : Bytes} (sync : startsSync S = true) {m : UbxMessage} :
    ubxDecode S = .accepted m ↔ messageWellFormed m = true ∧ ∃ rest, S = messageFrame m ++ rest := by
  constructor
  · intro accepted
    rcases Nat.lt_or_ge S.length (8 + (ubxLen S).toNat) with cut | whole
    · rw [ubxDecode_of_cut cut] at accepted
      cases accepted
    · obtain ⟨cls, id, P, a, b, rest, declarable, rfl⟩ := exists_frameWith sync whole
      rw [ubxDecode_frameWith cls id a b declarable] at accepted
      split_ifs at accepted with sums
      obtain ⟨rfl, rfl⟩ := sums
      obtain rfl := UbxOutcome.accepted.inj accepted
      simp only [messageWellFormed_iff, messageLen, messageFrame, messageParts_ubxMessage]
      exact ⟨⟨declarable, trivial⟩, rest, rfl⟩
  · rintro ⟨wellFormed, rest, rfl⟩
    obtain ⟨declarable, named⟩ := messageWellFormed_iff.mp wellFormed
    rw [messageFrame, build_eq_frameWith, ubxDecode_frameWith _ _ _ _ declarable, if_pos ⟨rfl, rfl⟩, named]

/-! ### A changed payload byte -/

/-- Exchanging one byte moves the first sum by the difference (R68). -/
theorem ubxCk_set_fst {D : Bytes} {k : Nat} {d : Byte} (h : D[k]? = some d) (v : Byte) :
    (ubxCk (D.set k v)).1 + d = (ubxCk D).1 + v := by
  induction D generalizing k with
  | nil => simp at h
  | cons c D ih =>
    cases k with
    | zero =>
      obtain rfl : c = d := by simpa using h
      simp only [List.set_cons_zero, ubxCk_cons_fst]
      ring
    | succ k =>
      simp only [List.set_cons_succ, ubxCk_cons_fst, BitVec.add_assoc, ih (by simpa using h)]

theorem ubxBody_set (cls id : Byte) (P : Bytes) (k : Nat) (v : Byte) :
    ubxBody cls id (P.set k v) = (ubxBody cls id P).set (4 + k) v := by
  rw [ubxBody, List.length_set, ubxBody, Nat.add_comm]
  rfl

theorem frameWith_set {cls id a b : Byte} {P : Bytes} {k : Nat} (hk : k < P.length) (v : Byte) :
    (frameWith cls id P a b).set (6 + k) v = frameWith cls id (P.set k v) a b := by
  rw [frameWith, frameWith, ubxBody_set, ← List.set_append_left _ _ (by rw [ubxBody_length]; omega),
    show 6 + k = 4 + k + 2 by omega]
  rfl

/-! ### The front of the decoder -/

theorem decode_of_sync {S : Bytes} (sync : startsSync S = true) (maxlen : Nat) : decode maxlen S = .ok (decodeUbx S) := by
  obtain ⟨first, -⟩ := startsSync_iff.mp sync
  cases S with
  | nil => cases first
  | cons b S =>
    obtain rfl := Option.some.inj first
    rw [decode, if_neg (by decide), if_pos sync]

theorem decodeUbx_of_short {S : Bytes} (short : S.length < 6) : decodeUbx S = .ubxIncomplete := if_pos short

/-- The operation or item that the frame decoder's outcome stands for at the cursor (R91 to R93, R110). -/
def decodedOutcome : UbxOutcome → Instr
  | .accepted m => messageInstr m
  | .rejected f => .ubxReject f

theorem decodeUbx_of_header {S : Bytes} (header : 6 ≤ S.length) : decodeUbx S = decodedOutcome (ubxDecode S) := by
  have whole : ¬ S.length < ubxHdr := Nat.not_lt.mpr header
  rw [decodeUbx, if_neg whole]
  cases ubxDecode S <;> rfl

/-! ### The obligations -/

/-- Settles O55: a whole frame is taken exactly when its trailing bytes are its sums. -/
theorem acceptedFramesAreTheWrittenForm : Obligations.AcceptedFramesAreTheWrittenForm :=
  fun _ _ sync => ubxDecode_eq_accepted_iff sync

/-- Settles O41: the changed byte moves the first sum, and the trailing bytes stay. -/
theorem oneCorruptPayloadByteIsDetected : Obligations.OneCorruptPayloadByteIsDetected := by
  intro cls id P k v declarable hk changed
  have old : (ubxBody cls id P)[4 + k]? = some P[k] := by
    rw [ubxBody, List.getElem?_append_right (by simp), ← List.getElem?_eq_getElem hk]
    congr 1
    simp
  have moved : (ubxCk (ubxBody cls id P)).1 ≠ (ubxCk (ubxBody cls id (P.set k v))).1 := by
    intro same
    have sums := ubxCk_set_fst old v
    rw [← ubxBody_set, ← same] at sums
    exact changed (by rw [List.getElem?_eq_getElem hk, add_left_cancel sums])
  have decoded := ubxDecode_frameWith cls id (ubxCk (ubxBody cls id P)).1 (ubxCk (ubxBody cls id P)).2
    (P := P.set k v) (by simpa using declarable) []
  rw [List.append_nil, if_neg fun sums => moved sums.1] at decoded
  rw [build_eq_frameWith, frameWith_set hk, decoded]

/-- Settles O4: the header test of R107 comes first, and behind it the declared length is already in the slice. -/
theorem cutFrameIsIncompleteOrTruncated : Obligations.CutFrameIsIncompleteOrTruncated := by
  intro maxlen cls id P n declarable
  have sync (hn : 2 ≤ n) : startsSync ((build cls id P).take n) = true := startsSync_take rfl hn
  refine ⟨fun low high => ?_, fun low high => ?_⟩
  · rw [decode_of_sync (sync low), decodeUbx_of_short (by rw [List.length_take]; omega)]
  · have length : ((build cls id P).take n).length = n := by rw [List.length_take, build_length]; omega
    have cut : ((build cls id P).take n).length < 8 + (ubxLen ((build cls id P).take n)).toNat := by
      rwa [ubxLen_take low, ubxLen_build cls id declarable, length]
    rw [decode_of_sync (sync (by omega)), decodeUbx_of_header (by omega), ubxDecode_of_cut cut, decodedOutcome]

end Sys2Proof.Proofs

/-! PROOFS. The encoder against the decoder (R46 to R49, R56, R61, R103): the text of a span, the span the scanner finds, and the
round trip in both directions. -/

namespace Sys2Proof.Proofs

open Sys2Proof.Machine

/-! ### The text of a span -/

/-- The end of a sentence as its text records it (R46). -/
def terminatorOf (cr : Bool) : Bytes := (if cr then [chCR] else []) ++ [chLF]

theorem isTerminator_iff {tail : Bytes} : isTerminator tail ↔ ∃ cr, tail = terminatorOf cr := by
  simp [isTerminator, terminatorOf]

theorem sentenceSpan_eq_writtenSpan (t : SentenceText) :
    sentenceSpan t = writtenSpan (joinFields t.fields) t.hex1 t.hex2 (terminatorOf t.cr) := by
  simp [sentenceSpan, writtenSpan, terminatorOf]

/-- What a span of the written form says, if its checksum is good (R72, R73). -/
theorem sentenceText?_writtenSpan {body : Bytes} {h1 h2 cks : Byte} (cr : Bool) (hbody : chStar ∉ body)
    (digits : hex2Dec h1 h2 = some cks) :
    sentenceText? (writtenSpan body h1 h2 (terminatorOf cr)) =
      if nmeaXor body = cks then some ⟨splitFields body, h1, h2, cr⟩ else none := by
  have frame := nmeaFrame_writtenSpan hbody digits (isTerminator_iff.mpr ⟨cr, rfl⟩)
  obtain ⟨-, -, hend, -⟩ := nmeaFrame_eq_some_iff.mp frame
  have digit1 : (writtenSpan body h1 h2 (terminatorOf cr)).getD (1 + body.length + 1) 0x00#8 = h1 := by
    simp [writtenSpan, Nat.add_comm 1]
  have digit2 : (writtenSpan body h1 h2 (terminatorOf cr)).getD (1 + body.length + 2) 0x00#8 = h2 := by
    simp [writtenSpan, Nat.add_comm 1]
  have hcr : (frameEnd (writtenSpan body h1 h2 (terminatorOf cr)) + 1 !=
      (writtenSpan body h1 h2 (terminatorOf cr)).length) = cr := by
    rw [hend]
    cases cr <;> simp [writtenSpan, terminatorOf] <;> omega
  simp only [sentenceText?, frame, nmeaCkOk, nmeaTokenize, slice_writtenSpan, digit1, digit2, hcr, beq_iff_eq]

/-- A text a span can say: it has a field, none with a comma or a `*`, and its digits are the checksum (R46 to R48, R72). -/
structure TextGood (t : SentenceText) : Prop where
  nonempty : t.fields ≠ []
  commaFree : ∀ f ∈ t.fields, chComma ∉ f
  starFree : chStar ∉ joinFields t.fields
  checksum : hex2Dec t.hex1 t.hex2 = some (nmeaXor (joinFields t.fields))

/-- A span and its text spell each other. -/
theorem sentenceText?_eq_some_iff {S : Bytes} {t : SentenceText} :
    sentenceText? S = some t ↔ S = sentenceSpan t ∧ TextGood t := by
  constructor
  · intro text
    cases frame : nmeaFrame S with
    | none => simp [sentenceText?, frame] at text
    | some p =>
      obtain ⟨body, tail, h1, h2, rfl, hbody, digits, -, ht⟩ := writtenSpan_of_nmeaFrame (i := p.1) (cks := p.2) frame
      obtain ⟨cr, rfl⟩ := isTerminator_iff.mp ht
      rw [sentenceText?_writtenSpan cr hbody digits, Option.ite_none_right_eq_some] at text
      obtain ⟨sum, text⟩ := text
      obtain rfl := Option.some.inj text
      have joined := joinFields_splitFields body
      refine ⟨?_, splitFields_ne_nil body, splitFields_no_comma body, ?_, ?_⟩
      · rw [sentenceSpan_eq_writtenSpan, joined]
      · rwa [joined]
      · rw [joined, sum, digits]
  · rintro ⟨rfl, nonempty, commaFree, starFree, checksum⟩
    rw [sentenceSpan_eq_writtenSpan, sentenceText?_writtenSpan t.cr starFree checksum, if_pos rfl,
      splitFields_joinFields nonempty commaFree]

/-- A field byte is none of the three that end a field, a body or a sentence (R46, R48). -/
theorem fieldByte_iff (b : Byte) : fieldByte b = true ↔ b ≠ chStar ∧ b ≠ chLF ∧ b ≠ chComma := by
  simp [fieldByte, bodyByte, and_assoc]

/-- R48: a body is made of body bytes exactly when its fields are made of field bytes. -/
theorem fields_all_fieldByte_iff (fields : List Bytes) :
    fields.all (·.all fieldByte) = true ↔
      (∀ f ∈ fields, chComma ∉ f) ∧ chStar ∉ joinFields fields ∧ chLF ∉ joinFields fields := by
  simp only [List.all_eq_true, fieldByte_iff]
  constructor
  · intro h
    have absent {c : Byte} (hc : c ≠ chComma) (apart : ∀ f ∈ fields, ∀ b ∈ f, b ≠ c) : c ∉ joinFields fields := fun hm => by
      rcases mem_joinFields hm with rfl | ⟨f, hf, hb⟩
      · exact hc rfl
      · exact apart f hf c hb rfl
    exact ⟨fun f hf hm => (h f hf _ hm).2.2 rfl, absent (by decide) fun f hf b hb => (h f hf b hb).1,
      absent (by decide) fun f hf b hb => (h f hf b hb).2.1⟩
  · rintro ⟨commaFree, starFree, lfFree⟩ f hf b hb
    refine ⟨?_, ?_, ?_⟩ <;> rintro rfl
    · exact starFree (mem_joinFields_of_mem hf hb)
    · exact lfFree (mem_joinFields_of_mem hf hb)
    · exact commaFree f hf hb

/-- A selected layout is that of an address field, so there is a field 0 (R49). -/
theorem fields_ne_nil_of_addrType {fields : List Bytes} {ty : Bytes} (h : addrType (addressField fields) = some ty) :
    fields ≠ [] := by
  rintro rfl
  cases h

/-- The encoder's bounds on a text are those of a text some span says, within the bound and without an early `\n`. -/
theorem textWellFormed_iff {maxlen : Nat} {ty : Bytes} {t : SentenceText} :
    textWellFormed maxlen ty t = true ↔
      TextGood t ∧ chLF ∉ joinFields t.fields ∧ addrType (addressField t.fields) = some ty ∧
        (sentenceSpan t).length ≤ maxlen := by
  simp only [textWellFormed, Bool.and_eq_true, fields_all_fieldByte_iff, beq_iff_eq, decide_eq_true_eq]
  constructor
  · rintro ⟨⟨⟨⟨commaFree, starFree, lfFree⟩, checksum⟩, addr⟩, fits⟩
    exact ⟨⟨fields_ne_nil_of_addrType addr, commaFree, starFree, checksum⟩, lfFree, addr, fits⟩
  · rintro ⟨⟨-, commaFree, starFree, checksum⟩, lfFree, addr, fits⟩
    exact ⟨⟨⟨⟨commaFree, starFree, lfFree⟩, checksum⟩, addr⟩, fits⟩

/-! ### The span the scanner finds -/

theorem spanWellFormed_iff {maxlen : Nat} {S : Bytes} :
    spanWellFormed maxlen S = true ↔
      S.head? = some chDollar ∧ findByte chLF S 1 S.length = some (S.length - 1) ∧ S.length ≤ maxlen := by
  simp [spanWellFormed, and_assoc]

theorem lf_not_mem_cr (cr : Bool) : chLF ∉ (if cr then [chCR] else [] : Bytes) := by
  cases cr <;> decide

/-- The `\n` of a sentence is its first (R46, R103). -/
theorem findByte_sentenceSpan {t : SentenceText} (good : TextGood t) (lfFree : chLF ∉ joinFields t.fields) :
    findByte chLF (sentenceSpan t) 1 (sentenceSpan t).length = some ((sentenceSpan t).length - 1) := by
  obtain ⟨digit1, digit2⟩ := hex2Dec_some good.checksum
  obtain ⟨v1, hv1⟩ := Option.isSome_iff_exists.mp digit1
  obtain ⟨v2, hv2⟩ := Option.isSome_iff_exists.mp digit2
  set text := joinFields t.fields ++ [chStar, t.hex1, t.hex2] ++ (if t.cr then [chCR] else []) with htext
  have span : sentenceSpan t = [chDollar] ++ (text ++ [chLF]) := by simp [sentenceSpan, htext]
  have length : (sentenceSpan t).length = 1 + text.length + 1 := by simp [span]; omega
  have lfFree' : chLF ∉ text := by
    simp only [htext, List.mem_append, List.mem_cons, List.not_mem_nil, or_false, not_or]
    exact ⟨⟨lfFree, by decide, (hexValue_some_ne hv1).2.1.symm, (hexValue_some_ne hv2).2.1.symm⟩, lf_not_mem_cr t.cr⟩
  rw [findByte_eq_some_iff_not_mem, length]
  refine ⟨by omega, by omega, ?_, ?_⟩
  · simp [span, Nat.add_comm 1]
  · rw [span, Nat.add_sub_cancel]
    exact fun h => lfFree' (slice_of_append [chDollar] text [chLF] ▸ h)

theorem spanWellFormed_of_textWellFormed {maxlen : Nat} {ty : Bytes} {t : SentenceText}
    (h : textWellFormed maxlen ty t = true) : spanWellFormed maxlen (sentenceSpan t) = true := by
  obtain ⟨good, lfFree, -, fits⟩ := textWellFormed_iff.mp h
  exact spanWellFormed_iff.mpr ⟨rfl, findByte_sentenceSpan good lfFree, fits⟩

/-- Within the bound R103 finds a span's own `\n`, whatever follows it. -/
theorem terminator_of_span {maxlen : Nat} {S : Bytes} (h : spanWellFormed maxlen S = true) (rest : Bytes) :
    terminator maxlen (S ++ rest) = some (S.length - 1) := by
  obtain ⟨-, found, fits⟩ := spanWellFormed_iff.mp h
  obtain ⟨low, high, newline, least⟩ := findByte_eq_some_iff.mp found
  have front (k : Nat) (hk : k < S.length) : (S ++ rest)[k]? = S[k]? := List.getElem?_append_left hk
  rw [terminator, findByte_eq_some_iff, List.length_append]
  refine ⟨low, by omega, by rwa [front _ high], fun m hm hmk => ?_⟩
  rw [front m (by omega)]
  exact least m hm hmk

/-- What R103 finds is a span within the bound. -/
theorem spanWellFormed_of_terminator {maxlen k : Nat} {bs : Bytes} (dollar : bs.head? = some chDollar)
    (found : terminator maxlen bs = some k) : spanWellFormed maxlen (bs.take (k + 1)) = true := by
  obtain ⟨low, high, newline, least⟩ := findByte_eq_some_iff.mp found
  have length : (bs.take (k + 1)).length = k + 1 := by rw [List.length_take]; omega
  have front (m : Nat) (hm : m < k + 1) : (bs.take (k + 1))[m]? = bs[m]? := List.getElem?_take_of_lt hm
  rw [spanWellFormed_iff, findByte_eq_some_iff, length, Nat.add_sub_cancel]
  refine ⟨by rw [List.head?_take, if_neg (by omega), dollar],
    ⟨low, by omega, by rwa [front k (by omega)], fun m hm hmk => ?_⟩, by omega⟩
  rw [front m (by omega)]
  exact least m hm hmk

/-! ### The sentence decoder's choice of a row -/

theorem selectsLayout_eq_false_iff {S : Bytes} :
    selectsLayout S = false ↔ ∀ t, sentenceText? S = some t →
      addrType (addressField t.fields) ≠ some typeRmc ∧ addrType (addressField t.fields) ≠ some typeGga := by
  rw [selectsLayout]
  cases sentenceText? S <;> simp

theorem decodeSpan_of_rmc {S : Bytes} {t : SentenceText} (text : sentenceText? S = some t)
    (addr : addrType (addressField t.fields) = some typeRmc) : decodeSpan S = .nmeaRmc t := by
  simp only [decodeSpan, text, addr, if_true]

theorem decodeSpan_of_gga {S : Bytes} {t : SentenceText} (text : sentenceText? S = some t)
    (addr : addrType (addressField t.fields) = some typeGga) : decodeSpan S = .nmeaGga t := by
  have other : some typeGga ≠ some typeRmc := by decide
  simp only [decodeSpan, text, addr, other, if_false, if_true]

theorem decodeSpan_of_other {S : Bytes} (other : selectsLayout S = false) : decodeSpan S = .nmeaOther S := by
  have selects := selectsLayout_eq_false_iff.mp other
  rw [decodeSpan]
  cases text : sentenceText? S with
  | none => rfl
  | some t =>
    obtain ⟨not_rmc, not_gga⟩ := selects t text
    simp only [not_rmc, not_gga, if_false]

/-- The three rows a span can be. -/
theorem decodeSpan_cases (S : Bytes) :
    (∃ t, sentenceText? S = some t ∧ addrType (addressField t.fields) = some typeRmc ∧ decodeSpan S = .nmeaRmc t) ∨
    (∃ t, sentenceText? S = some t ∧ addrType (addressField t.fields) = some typeGga ∧ decodeSpan S = .nmeaGga t) ∨
    (selectsLayout S = false ∧ decodeSpan S = .nmeaOther S) := by
  by_cases other : selectsLayout S = false
  · exact .inr (.inr ⟨other, decodeSpan_of_other other⟩)
  · rw [selectsLayout_eq_false_iff] at other
    push Not at other
    obtain ⟨t, text, layout⟩ := other
    by_cases rmc : addrType (addressField t.fields) = some typeRmc
    · exact .inl ⟨t, text, rmc, decodeSpan_of_rmc text rmc⟩
    · exact .inr (.inl ⟨t, text, layout rmc, decodeSpan_of_gga text (layout rmc)⟩)

/-! ### The front of the decoder -/

theorem decode_of_dollar {S : Bytes} (dollar : S.head? = some chDollar) (maxlen : Nat) :
    decode maxlen S = .ok (decodeNmea maxlen S) := by
  obtain ⟨S, rfl⟩ := List.head?_eq_some_iff.mp dollar
  rw [decode, if_pos rfl]

theorem decode_of_other {b : Byte} {S : Bytes} (not_dollar : b ≠ chDollar) (not_sync : startsSync (b :: S) = false)
    (maxlen : Nat) : decode maxlen (b :: S) = .ok (.skip b) := by
  rw [decode, if_neg not_dollar, not_sync]
  rfl

/-- An NMEA candidate with a terminator is its span, and without one the window ends within the bound or not (R103 to R105). -/
theorem decodeNmea_eq (maxlen : Nat) (S : Bytes) :
    decodeNmea maxlen S =
      (terminator maxlen S).elim (if S.length ≤ maxlen then .nmeaIncomplete else .nmeaOverlong)
        fun k => decodeSpan (S.take (k + 1)) := by
  rw [decodeNmea]
  cases terminator maxlen S <;> rfl

/-- A span at the front decodes as itself, whatever follows it. -/
theorem decode_span {maxlen : Nat} {S : Bytes} (h : spanWellFormed maxlen S = true) (rest : Bytes) :
    decode maxlen (S ++ rest) = .ok (decodeSpan S) := by
  obtain ⟨dollar, found, -⟩ := spanWellFormed_iff.mp h
  obtain ⟨low, high, -⟩ := findByte_eq_some_iff.mp found
  have whole : S.length - 1 + 1 = S.length := by omega
  rw [decode_of_dollar (by simp [dollar]), decodeNmea_eq, terminator_of_span h, Option.elim_some, whole, List.take_left]

theorem messageInstr_wellFormed (maxlen : Nat) (m : UbxMessage) :
    (messageInstr m).wellFormed maxlen = messageWellFormed m := by
  cases m <;> simp [messageInstr, Instr.wellFormed, messageWellFormed, messageLen, messageParts, ubxMessage, clsAck, idAck, idNak]

theorem encode_messageInstr (m : UbxMessage) : encode (messageInstr m) = some (messageFrame m) := by
  cases m <;> rfl

/-- A message's frame at the front decodes as the message, whatever follows it. -/
theorem decode_messageFrame {m : UbxMessage} (h : messageWellFormed m = true) (maxlen : Nat) (rest : Bytes) :
    decode maxlen (messageFrame m ++ rest) = .ok (messageInstr m) := by
  have sync : startsSync (messageFrame m ++ rest) = true := startsSync_append rfl rest
  have header : 6 ≤ (messageFrame m ++ rest).length := by
    rw [List.length_append, messageFrame, build_length]
    omega
  rw [decode_of_sync sync, decodeUbx_of_header header, (ubxDecode_eq_accepted_iff sync).mpr ⟨h, rest, rfl⟩, decodedOutcome]

/-! ### What the decoder answers stands at the front -/

/-- `i` is well formed and, where it is a wire item, its encoding is the front of `bs`. -/
def StandsInFront (maxlen : Nat) (bs : Bytes) (i : Instr) : Prop :=
  i.wellFormed maxlen = true ∧ (i.isWireItem = true → ∃ front rest, encode i = some front ∧ bs = front ++ rest)

theorem standsInFront_of_internal {maxlen : Nat} {bs : Bytes} {i : Instr} (wellFormed : i.wellFormed maxlen = true)
    (internal : i.isWireItem = false) : StandsInFront maxlen bs i :=
  ⟨wellFormed, fun wire => by simp [internal] at wire⟩

/-- A span's text lies within the span, so it has no `\n` before the last byte. -/
theorem textWellFormed_of_span {maxlen : Nat} {ty S : Bytes} {t : SentenceText} (span : spanWellFormed maxlen S = true)
    (text : sentenceText? S = some t) (addr : addrType (addressField t.fields) = some ty) :
    textWellFormed maxlen ty t = true := by
  obtain ⟨rfl, good⟩ := sentenceText?_eq_some_iff.mp text
  obtain ⟨-, found, fits⟩ := spanWellFormed_iff.mp span
  obtain ⟨-, -, -, lfFree⟩ := findByte_eq_some_iff_not_mem.mp found
  refine textWellFormed_iff.mpr ⟨good, fun body => lfFree ?_, addr, fits⟩
  obtain ⟨k, hk⟩ := List.mem_iff_getElem?.mp body
  have inside : k < (joinFields t.fields).length := (List.getElem?_eq_some_iff.mp hk).1
  refine List.mem_iff_getElem?.mpr ⟨k, ?_⟩
  rw [slice_getElem?, sentenceSpan_eq_writtenSpan, writtenSpan, if_pos (by simp; omega), Nat.add_comm, List.getElem?_cons_succ,
    List.getElem?_append_left inside, hk]

theorem decodeSpan_standsInFront {maxlen : Nat} {S : Bytes} (span : spanWellFormed maxlen S = true) (rest : Bytes) :
    StandsInFront maxlen (S ++ rest) (decodeSpan S) := by
  rcases decodeSpan_cases S with ⟨t, text, addr, row⟩ | ⟨t, text, addr, row⟩ | ⟨other, row⟩ <;> rw [row]
  · refine ⟨textWellFormed_of_span span text addr, fun _ => ⟨sentenceSpan t, rest, rfl, ?_⟩⟩
    rw [← (sentenceText?_eq_some_iff.mp text).1]
  · refine ⟨textWellFormed_of_span span text addr, fun _ => ⟨sentenceSpan t, rest, rfl, ?_⟩⟩
    rw [← (sentenceText?_eq_some_iff.mp text).1]
  · refine ⟨?_, fun _ => ⟨S, rest, rfl, rfl⟩⟩
    rw [Instr.wellFormed, span, other]
    rfl

theorem decodeNmea_standsInFront {maxlen : Nat} {bs : Bytes} (dollar : bs.head? = some chDollar) :
    StandsInFront maxlen bs (decodeNmea maxlen bs) := by
  rw [decodeNmea_eq]
  cases found : terminator maxlen bs with
  | none =>
    rw [Option.elim_none]
    split_ifs
    · exact standsInFront_of_internal rfl rfl
    · exact standsInFront_of_internal rfl rfl
  | some k =>
    rw [Option.elim_some]
    nth_rw 1 [← List.take_append_drop (k + 1) bs]
    exact decodeSpan_standsInFront (spanWellFormed_of_terminator dollar found) _

theorem decodeUbx_standsInFront (maxlen : Nat) {bs : Bytes} (sync : startsSync bs = true) :
    StandsInFront maxlen bs (decodeUbx bs) := by
  rcases Nat.lt_or_ge bs.length 6 with short | header
  · rw [decodeUbx_of_short short]
    exact standsInFront_of_internal rfl rfl
  · rw [decodeUbx_of_header header]
    cases decoded : ubxDecode bs with
    | accepted m =>
      obtain ⟨wellFormed, rest, front⟩ := (ubxDecode_eq_accepted_iff sync).mp decoded
      exact ⟨(messageInstr_wellFormed maxlen m).trans wellFormed, fun _ => ⟨_, rest, encode_messageInstr m, front⟩⟩
    | rejected f => exact standsInFront_of_internal rfl rfl

/-! ### The obligations -/

/-- Settles O2: the row the decoder chooses is the one whose conditions its tests have established. -/
theorem decodedItemStandsInTheWindow : Obligations.DecodedItemStandsInTheWindow := by
  intro maxlen bs i decoded
  change StandsInFront maxlen bs i
  cases bs with
  | nil => cases decoded
  | cons b bs =>
    by_cases dollar : b = chDollar
    · subst dollar
      rw [decode_of_dollar rfl] at decoded
      obtain rfl := Except.ok.inj decoded
      exact decodeNmea_standsInFront rfl
    · cases sync : startsSync (b :: bs) with
      | true =>
        rw [decode_of_sync sync] at decoded
        obtain rfl := Except.ok.inj decoded
        exact decodeUbx_standsInFront maxlen sync
      | false =>
        rw [decode_of_other dollar sync] at decoded
        obtain rfl := Except.ok.inj decoded
        exact ⟨bne_iff_ne.mpr dollar, fun _ => ⟨[b], bs, rfl, rfl⟩⟩

/-- A well-formed text's sentence is found whole, and says that text again. -/
theorem decode_sentenceSpan {maxlen : Nat} {ty : Bytes} {t : SentenceText} (h : textWellFormed maxlen ty t = true) (rest : Bytes) :
    decode maxlen (sentenceSpan t ++ rest) = .ok (decodeSpan (sentenceSpan t)) ∧ sentenceText? (sentenceSpan t) = some t ∧
      addrType (addressField t.fields) = some ty := by
  obtain ⟨good, -, addr, -⟩ := textWellFormed_iff.mp h
  exact ⟨decode_span (spanWellFormed_of_textWellFormed h) rest, sentenceText?_eq_some_iff.mpr ⟨rfl, good⟩, addr⟩

/-- Settles O1: a sentence's first `\n` is its own, a frame declares its own length, and neither test looks further. -/
theorem decodeOfEncodedItem : Obligations.DecodeOfEncodedItem := by
  intro maxlen i bs rest wire wellFormed encoded alone
  have message (m : UbxMessage) (hi : i = messageInstr m) : decode maxlen (bs ++ rest) = .ok i := by
    subst hi
    rw [encode_messageInstr, Option.some.injEq] at encoded
    rw [← encoded, decode_messageFrame (messageInstr_wellFormed maxlen m ▸ wellFormed)]
  cases i with
  | nmeaRmc t =>
    obtain rfl := Option.some.inj encoded
    obtain ⟨decoded, text, addr⟩ := decode_sentenceSpan wellFormed rest
    rw [decoded, decodeSpan_of_rmc text addr]
  | nmeaGga t =>
    obtain rfl := Option.some.inj encoded
    obtain ⟨decoded, text, addr⟩ := decode_sentenceSpan wellFormed rest
    rw [decoded, decodeSpan_of_gga text addr]
  | nmeaOther S =>
    obtain rfl := Option.some.inj encoded
    rw [Instr.wellFormed, Bool.and_eq_true, Bool.not_eq_true'] at wellFormed
    rw [decode_span wellFormed.1, decodeSpan_of_other wellFormed.2]
  | ubxAck a b => exact message (.ack a b) rfl
  | ubxNak a b => exact message (.nak a b) rfl
  | ubxFrame cls id P => exact message (.frame cls id P) rfl
  | skip b =>
    obtain rfl := Option.some.inj encoded
    exact decode_of_other (bne_iff_ne.mp wellFormed) (alone ⟨b, rfl⟩) maxlen
  | _ => cases wire

/-- Settles O3: the decoder evaluated on the vectors. -/
theorem sampleWordsDecode : Obligations.SampleWordsDecode := by
  refine ⟨?_, ?_, ?_, ?_, ?_⟩ <;> decide

end Sys2Proof.Proofs

/-! PROOFS. Every instruction's frame (R7, R11, R18, R19, R26, R27, R31): which state an operation needs, what the pure ones leave
alone, that none but SCAN changes the window, and what the items and small operations of a pass answer. -/

namespace Sys2Proof.Proofs

open Sys2Proof.Machine

/-! ### What an operation needs -/

/-- An operation of a pass asks for the phase before anything else (R11, R18). -/
theorem passOperation_guarded {i : Instr} (h : isPassOperation i = true) (s : State) : ∃ k, exec i s = inPass s k := by
  cases i with
  | nmeaRmc | nmeaGga | nmeaOther | ubxAck | ubxNak | ubxFrame | skip => exact ⟨_, rfl⟩
  | step | flush | nmeaSpan | nmeaIncomplete | nmeaOverlong | nmeaDispatch => exact ⟨_, rfl⟩
  | ubxSpan | ubxIncomplete | ubxAccept | ubxReject | scanEnd => exact ⟨_, rfl⟩
  | _ => cases h

theorem scanning_of_exec {i : Instr} (h : isPassOperation i = true) {s t : State} (ht : exec i s = .next t) :
    s.phase = .scanning := by
  obtain ⟨k, hk⟩ := passOperation_guarded h s
  exact (inPass_eq_next.mp (hk.symm.trans ht)).1

theorem atByte_of_le {s : State} {k : Out} (h : s.wlen ≤ s.off) : atByte s k = .fault (.noSuchOffset s.off) :=
  if_neg (Nat.not_lt.mpr h)

theorem report_of_lt {k : Kind} {c : Nat} {s : State} (h : s.wlen < s.off + c) :
    report k c s = .fault (.noSuchOffset (s.off + c - 1)) :=
  if_neg (Nat.not_le.mpr h)

theorem left_of_exec_step {s t : State} (ht : exec .step s = .next t) : s.phase = .scanning ∧ s.off < s.wlen := by
  obtain ⟨pass, ht⟩ := inPass_eq_next.mp ht
  exact ⟨pass, (atByte_eq_next.mp ht).1⟩

theorem dollar_of_exec_nmeaSpan {s t : State} (ht : exec .nmeaSpan s = .next t) :
    s.phase = .scanning ∧ windowByte s s.off = some chDollar := by
  obtain ⟨pass, ht⟩ := inPass_eq_next.mp ht
  obtain ⟨-, ht⟩ := atByte_eq_next.mp ht
  refine ⟨pass, by_contra fun other => ?_⟩
  rw [if_neg other] at ht
  cases ht

theorem sync_of_exec_ubxSpan {s t : State} (ht : exec .ubxSpan s = .next t) :
    s.phase = .scanning ∧ startsSync (fetchBytes s) = true := by
  obtain ⟨pass, ht⟩ := inPass_eq_next.mp ht
  obtain ⟨-, ht⟩ := atByte_eq_next.mp ht
  refine ⟨pass, by_contra fun other => ?_⟩
  rw [if_neg other] at ht
  cases ht

/-! ### What the pure operations write -/

/-- `t` is `s` but for the scratch registers of the decoders and the value handed back (R16, R17, R71). -/
def samePass (s t : State) : Prop :=
  t = { s with x := t.x, ckA := t.ckA, ckB := t.ckB, len := t.len, i := t.i, e := t.e, ret := t.ret }

theorem samePass.give {s t : State} (h : samePass s t) (r : Ret) : samePass s (t.give r) := congrArg (State.give r) h

theorem samePass_writeFrameMarks (S : Bytes) (s : State) : samePass s (s.writeFrameMarks S) := by
  rw [writeFrameMarks_frame]
  rfl

theorem samePass_writeSentenceScratch (S : Bytes) (s : State) : samePass s (s.writeSentenceScratch S) := by
  rw [writeSentenceScratch_frame]
  rfl

theorem samePass_writeFrameScratch (S : Bytes) (s : State) : samePass s (s.writeFrameScratch S) := by
  rw [writeFrameScratch_frame]
  rfl

theorem exec_nmeaAddr (f0 : Bytes) (others : List Bytes) (s : State) :
    exec (.nmeaAddr f0 others) s = .next { s with
      ret := (nmeaAddr f0).elim (.sentence (.unsupportedSentenceType f0)) fun a => .address a.1 a.2 } := by
  change execNmeaAddr f0 others s = _
  rw [execNmeaAddr]
  cases nmeaAddr f0 <;> rfl

theorem exec_parseHemiNs (t : Bytes) (s : State) :
    exec (.parseHemiNs t) s = .next { s with ret := (parseHemiNs t).elim .fail .sign } := giveParsed_eq _ _ s

theorem exec_parseHemiEw (t : Bytes) (s : State) :
    exec (.parseHemiEw t) s = .next { s with ret := (parseHemiEw t).elim .fail .sign } := giveParsed_eq _ _ s

theorem exec_parseStatus (t : Bytes) (s : State) :
    exec (.parseStatus t) s = .next { s with ret := (parseStatus t).elim .fail .truth } := giveParsed_eq _ _ s

/-- A pure operation that answers writes scratch registers and its value only; each answers by the equation of its section. -/
theorem samePass_of_exec {i : Instr} (pure : isPureOperation i = true) {s t : State} (ht : exec i s = .next t) : samePass s t := by
  have answers {u : State} (hu : exec i s = .next u) (same : samePass s u) : samePass s t := by
    rwa [Host.Outcome.next.inj (ht.symm.trans hu)]
  cases i with
  | nmeaXor => exact answers (exec_nmeaXor _ s) rfl
  | hex2Enc => exact answers (exec_hex2Enc _ s) rfl
  | hex2Dec => exact answers (exec_hex2Dec _ _ s) rfl
  | ubxCk => exact answers (exec_ubxCk _ s) rfl
  | ubxCkValid => exact answers (exec_ubxCkValid _ _ _ s) rfl
  | nmeaDecode S => exact answers (exec_nmeaDecode S s) ((samePass_writeSentenceScratch S s).give _)
  | nmeaFrame S => exact answers (exec_nmeaFrame S s) ((samePass_writeFrameMarks S s).give _)
  | nmeaCkcheck => exact answers (exec_nmeaCkcheck _ _ _ s) rfl
  | nmeaTokenize => exact answers (exec_nmeaTokenize _ _ s) rfl
  | nmeaAddr => exact answers (exec_nmeaAddr _ _ s) rfl
  | parseUint => exact answers (exec_parseUint _ s) rfl
  | parseDec => exact answers (exec_parseDec _ s) rfl
  | parseAngle => exact answers (exec_parseAngle _ _ s) rfl
  | parseTime => exact answers (exec_parseTime _ s) rfl
  | parseHemiNs => exact answers (exec_parseHemiNs _ s) rfl
  | parseHemiEw => exact answers (exec_parseHemiEw _ s) rfl
  | parseStatus => exact answers (exec_parseStatus _ s) rfl
  | ubxDecode S =>
    by_cases pre : S.length < 8 ∨ startsSync S = true
    · exact answers (exec_ubxDecode pre s) ((samePass_writeFrameScratch S s).give _)
    · rw [not_or, Nat.not_lt, Bool.not_eq_true] at pre
      rw [exec_ubxDecode_of_not_sync pre.1 pre.2] at ht
      cases ht
  | build cls id P => exact answers (exec_build (withPayload_eq_next.mp ht).1 cls id s) rfl
  | romRead k => exact answers (exec_romRead k s) rfl
  | cmdDisableGll => exact answers (exec_commandAt 0 s) rfl
  | cmdDisableVtg => exact answers (exec_commandAt 1 s) rfl
  | cmdDisableGsv => exact answers (exec_commandAt 2 s) rfl
  | cmdDisableGsa => exact answers (exec_commandAt 3 s) rfl
  | cmdSetNavmode => exact answers (exec_commandAt 4 s) rfl
  | cmdSetLed => exact answers (exec_commandAt 5 s) rfl
  | cmdPollStop => exact answers (exec_commandAt 6 s) rfl
  | _ => cases pure

/-! ### The window is kept and the results extended -/

/-- From `s` to `t` the window, the configuration, the ROM and the host's moves stay, and results are only appended (R7, R19, R26, R27,
R31). -/
structure Extends (s t : State) : Prop where
  mem : t.mem = s.mem
  wlen : t.wlen = s.wlen
  maxlen : t.maxlen = s.maxlen
  rom : t.rom = s.rom
  inbox : t.inbox = s.inbox
  appended : ∃ R, t.results = s.results ++ R ∧ t.emitted = s.emitted ++ R

theorem Extends.trans {s t u : State} (h : Extends s t) (h' : Extends t u) : Extends s u := by
  obtain ⟨R, results, emitted⟩ := h.appended
  obtain ⟨R', results', emitted'⟩ := h'.appended
  exact ⟨h'.mem.trans h.mem, h'.wlen.trans h.wlen, h'.maxlen.trans h.maxlen, h'.rom.trans h.rom, h'.inbox.trans h.inbox,
    R ++ R', by rw [results', results, List.append_assoc], by rw [emitted', emitted, List.append_assoc]⟩

theorem extends_of_samePass {s t : State} (h : samePass s t) : Extends s t := by
  rw [h]
  exact ⟨rfl, rfl, rfl, rfl, rfl, [], by simp, by simp⟩

theorem extends_setPm (s : State) (p : Option Proto) : Extends s { s with pm := p } :=
  ⟨rfl, rfl, rfl, rfl, rfl, [], by simp, by simp⟩

theorem extends_counted (s : State) : Extends s { s with skip := s.skip + 1, off := s.off + 1 } :=
  ⟨rfl, rfl, rfl, rfl, rfl, [], by simp, by simp⟩

theorem extends_flushSkip (s : State) : Extends s s.flushSkip :=
  ⟨flushSkip_mem s, flushSkip_wlen s, flushSkip_maxlen s, flushSkip_rom s, flushSkip_inbox s,
    _, flushSkip_results s, flushSkip_emitted s⟩

theorem extends_endPass (s : State) : Extends s s.endPass :=
  ⟨endPass_mem s, endPass_wlen s, endPass_maxlen s, endPass_rom s, endPass_inbox s, _, flushSkip_results s, flushSkip_emitted s⟩

theorem extends_of_report {k : Kind} {c : Nat} {s t : State} (h : report k c s = .next t) : Extends s t := by
  obtain ⟨-, rfl⟩ := report_eq_next.mp h
  exact ⟨rfl, rfl, rfl, rfl, rfl, _, rfl, rfl⟩

theorem Reported.extended {k : Kind} {c : Nat} {s t : State} (h : Reported k c s t) : Extends s t := by
  rw [h.frame]
  exact ⟨rfl, rfl, rfl, rfl, rfl, _, rfl, rfl⟩

theorem Stepped.extended {s t : State} (h : Stepped s t) : Extends s t := by
  cases h with
  | counted => exact extends_counted s
  | reported h => exact (extends_flushSkip s).trans h.extended

/-- An operation of a pass only reports, flushes, counts or ends the pass. -/
theorem extends_of_passOperation {i : Instr} (h : isPassOperation i = true) {s t : State} (ht : exec i s = .next t) :
    Extends s t := by
  have pass := scanning_of_exec h ht
  have answers {u : State} (hu : exec i s = .next u) (ext : Extends s u) : Extends s t := by
    rwa [Host.Outcome.next.inj (ht.symm.trans hu)]
  have body {k : Out} (guarded : inPass s k = .next t) : k = .next t := (inPass_eq_next.mp guarded).2
  cases i with
  | nmeaRmc | nmeaGga | nmeaOther | ubxAck | ubxNak | nmeaOverlong | ubxReject => exact extends_of_report (body ht)
  | ubxFrame | ubxAccept => exact extends_of_report (withPayload_eq_next.mp (body ht)).2
  | nmeaIncomplete | ubxIncomplete =>
    exact (extends_setPm s _).trans (extends_of_report (atByte_eq_next.mp (body ht)).2)
  | skip =>
    obtain ⟨-, ht⟩ := atByte_eq_next.mp (body ht)
    obtain rfl := Host.Outcome.next.inj ht
    exact extends_counted s
  | nmeaDispatch =>
    replace ht := body ht
    split_ifs at ht
    exact (extends_of_samePass (samePass_writeSentenceScratch _ s)).trans (extends_of_report ht)
  | step =>
    obtain ⟨u, hu, stepped⟩ := step_stepped pass (left_of_exec_step ht).2
    exact answers hu stepped.extended
  | nmeaSpan =>
    obtain ⟨u, _, _, hu, reported⟩ := nmeaSpan_reports pass (dollar_of_exec_nmeaSpan ht).2
    exact answers hu reported.extended
  | ubxSpan =>
    obtain ⟨u, _, _, hu, reported⟩ := ubxSpan_reports pass (sync_of_exec_ubxSpan ht).2
    exact answers hu reported.extended
  | flush => exact answers (exec_flush pass) (extends_flushSkip s)
  | scanEnd =>
    replace ht := body ht
    split_ifs at ht
    obtain rfl := Host.Outcome.next.inj ht
    exact extends_endPass s
  | _ => cases h

/-! ### The items of a pass -/

/-- A message's wire item does what accepting the message does (R91 to R93, R109). -/
theorem exec_messageInstr (m : UbxMessage) (s : State) : exec (messageInstr m) s = exec (.ubxAccept m) s := by
  cases m with
  | frame => rfl
  | ack a b => exact congrArg (inPass s) (withPayload_of_le (P := [a, b]) (by simp)).symm
  | nak a b => exact congrArg (inPass s) (withPayload_of_le (P := [a, b]) (by simp)).symm

/-- An item whose operands say its length is one report, if its payload can be declared. -/
theorem exec_eq_report {i : Instr} {c : Nat} (h : reportedLength i = some c) {s : State} (pass : s.phase = .scanning) :
    ∃ k, exec i s = report k c s := by
  have answers {k : Kind} {n : Nat} (hn : n = c) (hi : exec i s = inPass s (report k n s)) : ∃ k, exec i s = report k c s :=
    ⟨k, by rw [hi, inPass_of_scanning pass, hn]⟩
  cases i with
  | nmeaRmc | nmeaGga | nmeaOther | ubxAck | ubxNak | nmeaOverlong | ubxReject => exact answers (Option.some.inj h) rfl
  | ubxFrame cls id P | ubxAccept m =>
    rw [reportedLength, Option.ite_none_right_eq_some, Option.some.injEq] at h
    exact answers h.2 (congrArg (inPass s) (withPayload_of_le h.1))
  | _ => cases h

/-! ### The obligations -/

/-- Settles O53: what a pure operation writes is none of these. -/
theorem pureOperationsLeaveThePassAlone : Obligations.PureOperationsLeaveThePassAlone := by
  intro i s t pure ht
  rw [samePass_of_exec pure ht]
  exact ⟨rfl, rfl, rfl, rfl, rfl, rfl, rfl⟩

/-- Settles O6: a pure operation writes no result, and an operation of a pass appends. -/
theorem noInstructionWritesTheWindow : Obligations.NoInstructionWritesTheWindow := by
  intro i s t not_scan ht
  have ext : Extends s t := by
    cases pure : isPureOperation i with
    | true => exact extends_of_samePass (samePass_of_exec pure ht)
    | false =>
      refine extends_of_passOperation ?_ ht
      cases i with
      | scan w => exact absurd rfl (not_scan w)
      | _ => simp [isPassOperation, pure]
  exact ⟨windowByte_congr ext.mem ext.wlen, ext.wlen, ext.maxlen, ext.rom, ext.inbox, ext.appended⟩

/-- Settles O28: each operation tests its precondition before it does anything. -/
theorem operationsNeedTheirPrecondition : Obligations.OperationsNeedTheirPrecondition := by
  refine ⟨fun i s h idle => ?_, fun w s pass => ?_, fun s pass => ⟨fun left other => ?_, fun left other => ?_, fun behind => ?_,
    fun left => ?_⟩, fun s cls id P long => ⟨withPayload_of_lt long, fun pass => ⟨?_, ?_⟩⟩⟩
  · obtain ⟨k, hk⟩ := passOperation_guarded h s
    rw [hk, inPass_of_idle idle]
  · change execScan w s = _
    rw [execScan, pass]
  · change execNmeaSpan s = _
    rw [execNmeaSpan, inPass_of_scanning pass, atByte_of_lt left]
    exact if_neg other
  · change execUbxSpan s = _
    rw [execUbxSpan, inPass_of_scanning pass, atByte_of_lt left, if_neg fun sync => other (startsSync_fetchBytes.mp sync)]
  · change execNmeaDispatch s = _
    rw [execNmeaDispatch, inPass_of_scanning pass, if_neg (Nat.not_lt.mpr behind)]
  · change execScanEnd s = _
    rw [execScanEnd, inPass_of_scanning pass, if_pos left]
  · change execUbxFrame cls id P s = _
    rw [execUbxFrame, inPass_of_scanning pass, withPayload_of_lt long]
  · change execUbxAccept (.frame cls id P) s = _
    rw [execUbxAccept, inPass_of_scanning pass]
    exact withPayload_of_lt long

/-- Settles O29: the two tests of the window's length, the one for a byte and the one for a report. -/
theorem nothingStandsPastTheWindow : Obligations.NothingStandsPastTheWindow := by
  intro s pass
  refine ⟨fun i b hi past => ?_, fun i c hc past => ?_, fun span past => ?_⟩
  · have guarded : ∃ k, exec i s = inPass s (atByte s k) := by
      simp only [List.mem_cons, List.not_mem_nil, or_false] at hi
      rcases hi with rfl | rfl | rfl | rfl | rfl | rfl <;> exact ⟨_, rfl⟩
    obtain ⟨k, hk⟩ := guarded
    rw [hk, inPass_of_scanning pass, atByte_of_le past]
  · obtain ⟨k, hk⟩ := exec_eq_report hc pass
    rw [hk, report_of_lt past]
  · have beyond : s.off + (s.j + 1 - s.off) = s.j + 1 := by omega
    have outside : (s.writeSentenceScratch (foundSpan s)).wlen <
        (s.writeSentenceScratch (foundSpan s)).off + (s.j + 1 - s.off) := by
      rw [writeSentenceScratch_wlen, writeSentenceScratch_off, beyond]
      omega
    change execNmeaDispatch s = _
    rw [execNmeaDispatch, inPass_of_scanning pass, if_pos span, report_of_lt outside, writeSentenceScratch_off, beyond]
    rfl

/-- Settles O26: a message is reported for its frame's bytes. -/
theorem ubxAcceptConsumesTheFrame : Obligations.UbxAcceptConsumesTheFrame := fun _ a b cls id P =>
  ⟨exec_ubxAccept (m := .ack a b) (by simp [messageLen, messageParts]),
    exec_ubxAccept (m := .nak a b) (by simp [messageLen, messageParts]), exec_ubxAccept (m := .frame cls id P)⟩

/-- Settles O36: the item of an accepted message is the message's acceptance. -/
theorem acceptedFramesAreReportedWhole : Obligations.AcceptedFramesAreReportedWhole := by
  intro s a b cls id P
  obtain ⟨ack, nak, frame⟩ := ubxAcceptConsumesTheFrame s a b cls id P
  exact ⟨fun left => ⟨(exec_messageInstr (.ack a b) s).trans (ack left), (exec_messageInstr (.nak a b) s).trans (nak left)⟩,
    fun declarable left => (exec_messageInstr (.frame cls id P) s).trans (frame declarable left)⟩

/-- Settles O27: the end of a pass is a flush and a discarded cursor. -/
theorem scanEndReturnsToIdle : Obligations.ScanEndReturnsToIdle := fun s pass done =>
  ⟨_, _, exec_flush pass, exec_scanEnd pass done, endPass_phase s, endPass_results s, endPass_emitted s, endPass_mem s,
    endPass_wlen s, endPass_maxlen s, endPass_rom s, endPass_inbox s, endPass_ret s⟩

/-- Settles O30: both guards hold where a byte is left. -/
theorem skipCountsTheByte : Obligations.SkipCountsTheByte := by
  intro s b ⟨pass, left⟩
  change execSkip b s = _
  rw [execSkip, inPass_of_scanning pass, atByte_of_lt left]

end Sys2Proof.Proofs

/-! PROOFS. The sentence decoder as a whole (R20, R21, R70, R74, R80 to R83, R85): the two field layouts, the order of the checks, and
the obligations about the outcomes of a sentence. -/

namespace Sys2Proof.Proofs

open Sys2Proof.Machine

/-! ### Fields -/

/-- R81: a field's value, or its index where there is none. -/
theorem needField_eq {α : Type} (f : List Bytes) (n : Nat) (parse : Bytes → Option α) :
    needField f n parse = (fieldValue f n parse).elim (.error n) .ok := by
  rw [needField, fieldValue]
  cases f[n]? with
  | none => rfl
  | some t =>
    simp only [Option.bind_some]
    cases parse t <;> rfl

theorem needField_of_value {α : Type} {f : List Bytes} {n : Nat} {parse : Bytes → Option α} {v : α}
    (h : fieldValue f n parse = some v) : needField f n parse = .ok v := by
  rw [needField_eq, h, Option.elim_some]

theorem except_bind_eq_ok {α β : Type} {x : Except Nat α} {g : α → Except Nat β} {v : β} (h : x >>= g = .ok v) :
    ∃ u, x = .ok u ∧ g u = .ok v := by
  cases x with
  | error n => cases h
  | ok u => exact ⟨u, rfl, h⟩

/-- Fields looked at in ascending index: where `n` is the lowest bad one and `k ≤ n` is looked at next, the error names `n`, if what
follows does so for `k < n` (R81). -/
theorem needField_bind_eq_error {α β : Type} {f : List Bytes} {fieldOk : Nat → Bool} {k n : Nat} {parse : Bytes → Option α}
    {g : α → Except Nat β} (format : fieldOk k = (fieldValue f k parse).isSome) (bad : fieldOk n = false)
    (good : ∀ m, m < n → fieldOk m = true) (reached : k ≤ n) (rest : k + 1 ≤ n → ∀ v, g v = .error n) :
    needField f k parse >>= g = .error n := by
  rw [needField_eq]
  cases value : fieldValue f k parse with
  | none =>
    have here : k = n := by
      refine reached.eq_or_lt.resolve_right fun before => ?_
      simp [good k before, value] at format
    rw [here]
    rfl
  | some v =>
    have later : k + 1 ≤ n := by
      refine Nat.lt_of_le_of_ne reached fun here => ?_
      rw [here, bad, ← here, value] at format
      cases format
    exact rest later v

/-! ### The two layouts -/

theorem rmcFix_of_values {f : List Bytes} {utc : Utc} {valid : Bool} {a o : Rat} {sa so : Int}
    (h1 : fieldValue f 1 parseTime = some utc) (h2 : fieldValue f 2 parseStatus = some valid)
    (h3 : fieldValue f 3 (parseAngle · 2) = some a) (h4 : fieldValue f 4 parseHemiNs = some sa)
    (h5 : fieldValue f 5 (parseAngle · 3) = some o) (h6 : fieldValue f 6 parseHemiEw = some so) :
    rmcFix f = .ok { lat := sa * a, lon := so * o, utc := utc, valid := valid, sats := none, hdop := none } := by
  rw [rmcFix, needField_of_value h1, needField_of_value h2, needField_of_value h3, needField_of_value h4, needField_of_value h5,
    needField_of_value h6]
  rfl

theorem ggaFix_of_values {f : List Bytes} {utc : Utc} {a o : Rat} {sa so : Int} {q sats : Nat} {d : DecParts}
    (h1 : fieldValue f 1 parseTime = some utc) (h2 : fieldValue f 2 (parseAngle · 2) = some a)
    (h3 : fieldValue f 3 parseHemiNs = some sa) (h4 : fieldValue f 4 (parseAngle · 3) = some o)
    (h5 : fieldValue f 5 parseHemiEw = some so) (h6 : fieldValue f 6 parseUint = some q)
    (h7 : fieldValue f 7 parseUint = some sats) (h8 : fieldValue f 8 parseDec = some d) :
    ggaFix f = .ok
      { lat := sa * a, lon := so * o, utc := utc, valid := qualityValid q, sats := some sats, hdop := some d.v } := by
  rw [ggaFix, needField_of_value h1, needField_of_value h2, needField_of_value h3, needField_of_value h4, needField_of_value h5,
    needField_of_value h6, needField_of_value h7, needField_of_value h8]
  rfl

/-- RMC uses fields 1 to 6, and the lowest bad one decides (R52, R82). -/
theorem rmcFix_of_bad {f : List Bytes} {n : Nat} (bad : rmcFieldOk f n = false) (good : ∀ m, m < n → rmcFieldOk f m = true) :
    1 ≤ n ∧ n ≤ 6 ∧ rmcFix f = .error n := by
  have used : 1 ≤ n ∧ n ≤ 6 := by
    match n, bad with
    | 1, _ | 2, _ | 3, _ | 4, _ | 5, _ | 6, _ => decide
  obtain ⟨first, last⟩ := used
  refine ⟨first, last, ?_⟩
  rw [rmcFix]
  iterate 6 refine needField_bind_eq_error rfl bad good (by assumption) fun _ _ => ?_
  omega

/-- GGA uses fields 1 to 8, and the lowest bad one decides (R53, R83). -/
theorem ggaFix_of_bad {f : List Bytes} {n : Nat} (bad : ggaFieldOk f n = false) (good : ∀ m, m < n → ggaFieldOk f m = true) :
    1 ≤ n ∧ n ≤ 8 ∧ ggaFix f = .error n := by
  have used : 1 ≤ n ∧ n ≤ 8 := by
    match n, bad with
    | 1, _ | 2, _ | 3, _ | 4, _ | 5, _ | 6, _ | 7, _ | 8, _ => decide
  obtain ⟨first, last⟩ := used
  refine ⟨first, last, ?_⟩
  rw [ggaFix]
  iterate 8 refine needField_bind_eq_error rfl bad good (by assumption) fun _ _ => ?_
  omega

/-- A fix of an RMC sentence has no satellites and no HDOP (R20, R82). -/
theorem extras_of_rmcFix {f : List Bytes} {p : PositionFix} (h : rmcFix f = .ok p) : p.sats = none ∧ p.hdop = none := by
  rw [rmcFix] at h
  iterate 6 obtain ⟨_, -, h⟩ := except_bind_eq_ok h
  obtain rfl := Except.ok.inj h
  exact ⟨rfl, rfl⟩

/-- A fix of a GGA sentence has both (R20, R83). -/
theorem extras_of_ggaFix {f : List Bytes} {p : PositionFix} (h : ggaFix f = .ok p) :
    p.sats.isSome = true ∧ p.hdop.isSome = true := by
  rw [ggaFix] at h
  iterate 8 obtain ⟨_, -, h⟩ := except_bind_eq_ok h
  obtain rfl := Except.ok.inj h
  exact ⟨rfl, rfl⟩

theorem fixOutcome_eq_positionFix {x : Except Nat PositionFix} {p : PositionFix} (h : fixOutcome x = .positionFix p) : x = .ok p := by
  cases x with
  | error n => cases h
  | ok q => rw [NmeaOutcome.positionFix.inj h]

/-! ### The address field -/

theorem nmeaAddr_append {talker ty : Bytes} (htalker : talker.length = 2) (hty : ty.length = 3) :
    nmeaAddr (talker ++ ty) = some (talker, ty) := by
  have front : slice (talker ++ ty) 0 2 = talker := htalker ▸ slice_append_left talker ty
  have back : slice (talker ++ ty) 2 5 = ty := by simpa [htalker, hty] using slice_append_right talker ty
  rw [nmeaAddr, if_pos (by simp [htalker, hty]), front, back]

/-- R74: an address field of 5 bytes falls into talker and type, any other into nothing. -/
theorem nmeaAddr_eq_some_iff {f0 talker ty : Bytes} :
    nmeaAddr f0 = some (talker, ty) ↔ talker.length = 2 ∧ ty.length = 3 ∧ f0 = talker ++ ty := by
  constructor
  · intro h
    rw [nmeaAddr, Option.ite_none_right_eq_some, Option.some.injEq, Prod.mk.injEq] at h
    obtain ⟨five, rfl, rfl⟩ := h
    refine ⟨by rw [slice_length]; omega, by rw [slice_length]; omega, ?_⟩
    rw [slice, slice, List.drop_zero, ← five, List.take_length, List.take_append_drop]
  · rintro ⟨htalker, hty, rfl⟩
    exact nmeaAddr_append htalker hty

/-- The selected layout is the last three bytes of an address field of five (R49). -/
theorem addrType_eq_some_iff {f0 ty : Bytes} : addrType f0 = some ty ↔ f0.length = 5 ∧ f0.drop 2 = ty := by
  rw [addrType, nmeaAddr]
  split_ifs with five
  · have last : slice f0 2 5 = f0.drop 2 := by rw [slice, ← five, List.take_length]
    rw [Option.map_some, Option.some.injEq, last]
    exact (and_iff_right five).symm
  · simp [five]

/-! ### The outcome, check by check -/

theorem nmeaDecode_of_unframed {S : Bytes} (h : nmeaFrame S = none) : nmeaDecode S = .malformedSentence := by
  simp only [nmeaDecode, h]

theorem nmeaDecode_of_framed {S : Bytes} {i : Nat} {cks : Byte} (h : nmeaFrame S = some (i, cks)) :
    nmeaDecode S = if nmeaXor (slice S 1 i) = cks then fieldsOutcome (splitFields (slice S 1 i)) else .checksumMismatch := by
  simp only [nmeaDecode, h, nmeaCkOk, nmeaTokenize, beq_iff_eq]

theorem otherOutcome_of_unframed {S : Bytes} (h : nmeaFrame S = none) : otherOutcome S = .malformedSentence := by
  simp only [otherOutcome, h]

theorem otherOutcome_of_framed {S : Bytes} {i : Nat} {cks : Byte} (h : nmeaFrame S = some (i, cks)) :
    otherOutcome S =
      if nmeaXor (slice S 1 i) = cks then .unsupportedSentenceType (addressField (splitFields (slice S 1 i)))
      else .checksumMismatch := by
  simp only [otherOutcome, h, nmeaCkOk, nmeaTokenize, beq_iff_eq]

/-- The record of R21 where structure and checksum are good and the address field has its two parts. -/
theorem nmeaSentence?_of_framed {S talker ty : Bytes} {i : Nat} {cks : Byte} (h : nmeaFrame S = some (i, cks))
    (sum : nmeaXor (slice S 1 i) = cks) (addr : nmeaAddr (addressField (splitFields (slice S 1 i))) = some (talker, ty)) :
    nmeaSentence? S = some { talker := talker, ty := ty, f := splitFields (slice S 1 i), cks := cks } := by
  simp only [nmeaSentence?, h, nmeaCkOk, nmeaTokenize, sum, beq_self_eq_true, if_true, addr, Option.map_some]

theorem fieldsOutcome_of_rmc {f : List Bytes} (h : addrType (addressField f) = some typeRmc) :
    fieldsOutcome f = fixOutcome (rmcFix f) := if_pos h

theorem fieldsOutcome_of_gga {f : List Bytes} (h : addrType (addressField f) = some typeGga) :
    fieldsOutcome f = fixOutcome (ggaFix f) := by
  have other : some typeGga ≠ some typeRmc := by decide
  rw [fieldsOutcome, h, if_neg other, if_pos rfl]

theorem fieldsOutcome_of_other {f : List Bytes} (not_rmc : addrType (addressField f) ≠ some typeRmc)
    (not_gga : addrType (addressField f) ≠ some typeGga) : fieldsOutcome f = .unsupportedSentenceType (addressField f) := by
  rw [fieldsOutcome, if_neg not_rmc, if_neg not_gga]

/-- A fix is that of one of the two layouts (R49, R70). -/
theorem layout_of_positionFix {f : List Bytes} {p : PositionFix} (h : fieldsOutcome f = .positionFix p) :
    (addrType (addressField f) = some typeRmc ∧ rmcFix f = .ok p) ∨
    (addrType (addressField f) = some typeGga ∧ ggaFix f = .ok p) := by
  by_cases rmc : addrType (addressField f) = some typeRmc
  · rw [fieldsOutcome_of_rmc rmc] at h
    exact .inl ⟨rmc, fixOutcome_eq_positionFix h⟩
  · by_cases gga : addrType (addressField f) = some typeGga
    · rw [fieldsOutcome_of_gga gga] at h
      exact .inr ⟨gga, fixOutcome_eq_positionFix h⟩
    · rw [fieldsOutcome_of_other rmc gga] at h
      cases h

theorem writeSentenceScratch_of_unframed {S : Bytes} (h : nmeaFrame S = none) (s : State) :
    s.writeSentenceScratch S = s.writeFrameMarks S := by
  simp only [State.writeSentenceScratch, h]

theorem writeSentenceScratch_of_framed {S : Bytes} {i : Nat} {cks : Byte} (h : nmeaFrame S = some (i, cks)) (s : State) :
    s.writeSentenceScratch S = { s with i := i, e := i + 3, x := nmeaXor (slice S 1 i) } := by
  simp only [State.writeSentenceScratch, h, writeFrameMarks_of_nmeaFrame h]

/-! ### What a sentence's item answers -/

theorem exec_nmeaRmc {s : State} {t : SentenceText} (left : passWith (sentenceSpan t).length s) :
    exec (.nmeaRmc t) s = .next (after (nmeaKind (fixOutcome (rmcFix t.fields))) (sentenceSpan t).length s) := by
  change execNmeaRmc t s = _
  rw [execNmeaRmc, inPass_of_scanning left.1, report_eq_after left.2]

theorem exec_nmeaGga {s : State} {t : SentenceText} (left : passWith (sentenceSpan t).length s) :
    exec (.nmeaGga t) s = .next (after (nmeaKind (fixOutcome (ggaFix t.fields))) (sentenceSpan t).length s) := by
  change execNmeaGga t s = _
  rw [execNmeaGga, inPass_of_scanning left.1, report_eq_after left.2]

theorem exec_nmeaOther {s : State} {S : Bytes} (left : passWith S.length s) :
    exec (.nmeaOther S) s = .next (after (nmeaKind (otherOutcome S)) S.length s) := by
  change execNmeaOther S s = _
  rw [execNmeaOther, inPass_of_scanning left.1, report_eq_after left.2]

/-! ### The obligations -/

/-- Settles O42: the frame's answer, then the comparison, then the address field decide, and the scratch registers follow the same
cases. -/
theorem decodeChecksInOrder : Obligations.DecodeChecksInOrder := by
  intro s S
  refine ⟨_, _, exec_nmeaDecode S s, rfl, ?_, fun unframed => ?_, fun i cks framed => ?_⟩
  · rw [writeSentenceScratch_frame]
  · rw [writeSentenceScratch_of_unframed unframed]
    exact ⟨nmeaDecode_of_unframed unframed, writeFrameMarks_x S s⟩
  · rw [writeSentenceScratch_of_framed framed, nmeaDecode_of_framed framed]
    refine ⟨rfl, rfl, fun differ => if_neg differ, fun addr fs sum fields => ?_⟩
    rw [if_pos sum, fields]
    refine ⟨fun five ty => ?_, fun five ty => ?_, fun other => ?_⟩
    · exact fieldsOutcome_of_rmc (addrType_eq_some_iff.mpr ⟨five, ty⟩)
    · exact fieldsOutcome_of_gga (addrType_eq_some_iff.mpr ⟨five, ty⟩)
    · refine fieldsOutcome_of_other (fun h => ?_) (fun h => ?_) <;> obtain ⟨five, ty⟩ := addrType_eq_some_iff.mp h
      · exact (other.resolve_left (not_not_intro five)).1 ty
      · exact (other.resolve_left (not_not_intro five)).2 ty

/-- Settles O47: a fix is the outcome of the last check only, so every check before it has passed. -/
theorem fixOnlyFromAValidSentence : Obligations.FixOnlyFromAValidSentence := by
  intro S p fix
  cases framed : nmeaFrame S with
  | none =>
    rw [nmeaDecode_of_unframed framed] at fix
    cases fix
  | some frame =>
    obtain ⟨i, cks⟩ := frame
    rw [nmeaDecode_of_framed framed] at fix
    split_ifs at fix with sum
    have record {ty : Bytes} (addr : addrType (addressField (splitFields (slice S 1 i))) = some ty) :
        ∃ talker, nmeaSentence? S = some { talker := talker, ty := ty, f := splitFields (slice S 1 i), cks := cks } ∧
          talker.length = 2 ∧ (splitFields (slice S 1 i))[0]? = some (talker ++ ty) := by
      obtain ⟨⟨talker, ty⟩, parts, rfl⟩ := Option.map_eq_some_iff.mp addr
      obtain ⟨two, -, field⟩ := nmeaAddr_eq_some_iff.mp parts
      refine ⟨talker, nmeaSentence?_of_framed framed sum parts, two, ?_⟩
      rw [← field]
      cases fields : splitFields (slice S 1 i) with
      | nil => exact absurd fields (splitFields_ne_nil _)
      | cons f0 fs => rfl
    rcases layout_of_positionFix fix with ⟨addr, layout⟩ | ⟨addr, layout⟩ <;>
      obtain ⟨talker, sentence, two, field⟩ := record addr
    · exact ⟨_, i, sentence, rfl, sum.symm, two, field, joinFields_splitFields _, .inl ⟨rfl, extras_of_rmcFix layout⟩⟩
    · exact ⟨_, i, sentence, rfl, sum.symm, two, field, joinFields_splitFields _, .inr ⟨rfl, extras_of_ggaFix layout⟩⟩

/-- Settles O46: a 5-byte address field splits after its second byte. -/
theorem addressFieldIsTalkerAndType : Obligations.AddressFieldIsTalkerAndType := by
  intro s f0 talker ty others
  rw [exec_nmeaAddr]
  refine ⟨fun htalker hty hf0 => ?_, fun other => ?_⟩
  · rw [nmeaAddr_eq_some_iff.mpr ⟨htalker, hty, hf0⟩, Option.elim_some]
  · rw [nmeaAddr, if_neg other, Option.elim_none]

/-- Settles O52: each parser compares with its two letters. -/
theorem letterFieldsAreExact : Obligations.LetterFieldsAreExact := by
  intro s t
  simp only [exec_parseHemiNs, exec_parseHemiEw, exec_parseStatus]
  refine ⟨rfl, rfl, fun n s => ?_, rfl, rfl, fun e w => ?_, rfl, rfl, fun a v => ?_⟩
  · rw [parseHemiNs, if_neg n, if_neg s, Option.elim_none]
  · rw [parseHemiEw, if_neg e, if_neg w, Option.elim_none]
  · rw [parseStatus, if_neg a, if_neg v, Option.elim_none]

/-- Settles O31: each field gives its value, and the item reports the fix. -/
theorem rmcGivesAPositionFix : Obligations.RmcGivesAPositionFix := by
  intro s t utc valid a o sa so left h1 h2 h3 h4 h5 h6
  rw [exec_nmeaRmc left, rmcFix_of_values h1 h2 h3 h4 h5 h6]
  rfl

/-- Settles O33: each field gives its value, and the item reports the fix. -/
theorem ggaGivesAPositionFix : Obligations.GgaGivesAPositionFix := by
  intro s t utc a o sa so q sats d left h1 h2 h3 h4 h5 h6 h7 h8
  have quality : qualityValid q = decide (q ≠ 0) := by simp [qualityValid, bne, beq_eq_decide]
  rw [exec_nmeaGga left, ggaFix_of_values h1 h2 h3 h4 h5 h6 h7 h8, quality]
  rfl

/-- Settles O32: the fields are looked at in ascending index. -/
theorem rmcNamesTheLowestBadField : Obligations.RmcNamesTheLowestBadField := by
  intro s t n left bad good
  obtain ⟨first, last, error⟩ := rmcFix_of_bad bad good
  refine ⟨first, last, ?_⟩
  rw [exec_nmeaRmc left, error]
  rfl

/-- Settles O34: the fields are looked at in ascending index. -/
theorem ggaNamesTheLowestBadField : Obligations.GgaNamesTheLowestBadField := by
  intro s t n left bad good
  obtain ⟨first, last, error⟩ := ggaFix_of_bad bad good
  refine ⟨first, last, ?_⟩
  rw [exec_nmeaGga left, error]
  rfl

/-- Settles O35: the item's outcome makes the decoder's first two checks, and the address field is field 0. -/
theorem otherSentencesAreReportedWhole : Obligations.OtherSentencesAreReportedWhole := by
  intro s S left
  rw [exec_nmeaOther left]
  refine ⟨fun unframed => ?_, fun i cks framed differ => ?_, fun i cks addr fs framed sum fields => ?_⟩
  · rw [otherOutcome_of_unframed unframed]
    rfl
  · rw [otherOutcome_of_framed framed, if_neg differ]
    rfl
  · rw [otherOutcome_of_framed framed, if_pos sum, fields]
    rfl

end Sys2Proof.Proofs

/-! PROOFS. The step of a running pass (R101 to R110, R113): that decoding the item at the cursor and running it is the spec's own
STEP, and which result a step gives, as a function of the bytes left. -/

namespace Sys2Proof.Proofs

open Sys2Proof.Machine

/-! ### The bytes at the cursor -/

theorem fetchBytes_flushSkip (s : State) : fetchBytes s.flushSkip = fetchBytes s :=
  fetchBytes_congr (flushSkip_mem s) (flushSkip_wlen s) (flushSkip_off s)

theorem windowByte_flushSkip (s : State) (a : Nat) : windowByte s.flushSkip a = windowByte s a :=
  windowByte_congr (flushSkip_mem s) (flushSkip_wlen s) a

theorem head?_fetchBytes (s : State) : (fetchBytes s).head? = windowByte s s.off := by
  rw [List.head?_eq_getElem?, fetchBytes_getElem?, Nat.add_zero]

theorem fetchBytes_ne_nil {s : State} (left : s.off < s.wlen) : fetchBytes s ≠ [] := by
  apply List.ne_nil_of_length_pos
  rw [fetchBytes_length]
  omega

theorem fetchBytes_eq_nil {s : State} (done : s.wlen ≤ s.off) : fetchBytes s = [] := by
  apply List.eq_nil_of_length_eq_zero
  rw [fetchBytes_length]
  omega

/-- A cursor `c` bytes further on leaves `c` bytes less. -/
theorem fetchBytes_drop {s t : State} {c : Nat} (mem : t.mem = s.mem) (wlen : t.wlen = s.wlen) (off : t.off = s.off + c) :
    fetchBytes t = (fetchBytes s).drop c := by
  apply List.ext_getElem?
  intro k
  rw [List.getElem?_drop, fetchBytes_getElem?, fetchBytes_getElem?, windowByte_congr mem wlen, off, Nat.add_assoc]

/-- R103 searches the window as the decoder searches the bytes it is given. -/
theorem terminatorOffset_eq (s : State) :
    terminatorOffset s = (terminator s.maxlen (fetchBytes s)).map (s.off + ·) := by
  rw [terminatorOffset, terminator, fetchBytes_length]

theorem lt_length_of_terminator {maxlen k : Nat} {bs : Bytes} (h : terminator maxlen bs = some k) : 1 ≤ k ∧ k < bs.length := by
  obtain ⟨low, high, -⟩ := findByte_eq_some_iff.mp h
  omega

/-! ### A span's item is its decoding -/

/-- The text of a span of good structure and checksum has the fields the decoder looks at (R73). -/
theorem sentenceText?_of_framed {S : Bytes} {i : Nat} {cks : Byte} (framed : nmeaFrame S = some (i, cks))
    (sum : nmeaXor (slice S 1 i) = cks) : ∃ t, sentenceText? S = some t ∧ t.fields = splitFields (slice S 1 i) := by
  simp only [sentenceText?, framed, nmeaCkOk, sum, beq_self_eq_true, if_true]
  exact ⟨_, rfl, rfl⟩

/-- A span without a text fails one of the decoder's first two checks, as R75 reports it. -/
theorem nmeaDecode_of_no_text {S : Bytes} (text : sentenceText? S = none) : nmeaDecode S = otherOutcome S := by
  cases framed : nmeaFrame S with
  | none => rw [nmeaDecode_of_unframed framed, otherOutcome_of_unframed framed]
  | some frame =>
    have differ : nmeaXor (slice S 1 frame.1) ≠ frame.2 := fun sum => by
      obtain ⟨t, ht, -⟩ := sentenceText?_of_framed framed sum
      rw [text] at ht
      cases ht
    rw [nmeaDecode_of_framed framed, otherOutcome_of_framed framed, if_neg differ, if_neg differ]

/-- A span with a text has passed them, and its fields decide. -/
theorem nmeaDecode_of_text {S : Bytes} {t : SentenceText} (text : sentenceText? S = some t) :
    nmeaDecode S = fieldsOutcome t.fields ∧ otherOutcome S = .unsupportedSentenceType (addressField t.fields) := by
  cases framed : nmeaFrame S with
  | none => simp [sentenceText?, framed] at text
  | some frame =>
    have sum : nmeaXor (slice S 1 frame.1) = frame.2 := by
      simp only [sentenceText?, framed, nmeaCkOk, Option.ite_none_right_eq_some, beq_iff_eq] at text
      exact text.1
    obtain ⟨t', text', fields⟩ := sentenceText?_of_framed framed sum
    obtain rfl := Option.some.inj (text.symm.trans text')
    rw [nmeaDecode_of_framed framed, otherOutcome_of_framed framed, if_pos sum, if_pos sum, fields]
    exact ⟨rfl, rfl⟩

/-- R75 is the decoder's outcome on a span that selects neither layout. -/
theorem nmeaDecode_of_other {S : Bytes} (other : selectsLayout S = false) : nmeaDecode S = otherOutcome S := by
  cases text : sentenceText? S with
  | none => exact nmeaDecode_of_no_text text
  | some t =>
    obtain ⟨not_rmc, not_gga⟩ := selectsLayout_eq_false_iff.mp other t text
    obtain ⟨decoded, reported⟩ := nmeaDecode_of_text text
    rw [decoded, reported, fieldsOutcome_of_other not_rmc not_gga]

/-- Whichever row a span is, running it reports the decoder's outcome for the whole span (R85, R106). -/
theorem exec_decodeSpan (S : Bytes) (s : State) :
    exec (decodeSpan S) s = inPass s (report (nmeaKind (nmeaDecode S)) S.length s) := by
  rcases decodeSpan_cases S with ⟨t, text, addr, row⟩ | ⟨t, text, addr, row⟩ | ⟨other, row⟩ <;> rw [row]
  · rw [(nmeaDecode_of_text text).1, fieldsOutcome_of_rmc addr, (sentenceText?_eq_some_iff.mp text).1]
    rfl
  · rw [(nmeaDecode_of_text text).1, fieldsOutcome_of_gga addr, (sentenceText?_eq_some_iff.mp text).1]
    rfl
  · rw [nmeaDecode_of_other other]
    rfl

/-! ### Recognising the item -/

/-- What recognising a candidate sentence writes (R71, R72, R103): `j` and the decoder's scratch registers, where a span is found. -/
def markSentence (bs : Bytes) (s : State) : State :=
  (terminator s.maxlen bs).elim s fun k => { s with j := s.off + k }.writeSentenceScratch (bs.take (k + 1))

theorem recognise_of_dollar {s : State} {bs : Bytes} (dollar : bs.head? = some chDollar) :
    s.recognise bs = markSentence bs s.flushSkip := by
  have same : terminator s.flushSkip.maxlen bs = terminator s.maxlen bs := by rw [flushSkip_maxlen]
  rw [State.recognise, if_pos dollar, markSentence, same]
  cases terminator s.maxlen bs with
  | none => rfl
  | some k =>
    exact congrArg (fun a => { s.flushSkip with j := a + k }.writeSentenceScratch (bs.take (k + 1))) (flushSkip_off s).symm

theorem head?_ne_dollar_of_sync {bs : Bytes} (sync : startsSync bs = true) : bs.head? ≠ some chDollar := by
  rw [List.head?_eq_getElem?, (startsSync_iff.mp sync).1]
  decide

theorem recognise_of_sync {s : State} {bs : Bytes} (sync : startsSync bs = true) :
    s.recognise bs = if bs.length < 6 then s.flushSkip else s.flushSkip.writeFrameScratch bs := by
  rw [State.recognise, if_neg (head?_ne_dollar_of_sync sync), if_pos sync]
  rfl

theorem recognise_of_other {s : State} {bs : Bytes} (not_dollar : bs.head? ≠ some chDollar) (not_sync : startsSync bs = false) :
    s.recognise bs = s := by
  rw [State.recognise, if_neg not_dollar, not_sync]
  rfl

/-! ### The decoded item and STEP -/

section DecodedItem

variable {s : State} (pass : s.phase = .scanning)

include pass

theorem flushSkip_pass : s.flushSkip.phase = .scanning := (flushSkip_phase s).trans pass

theorem exec_nmeaDispatch_of_span (span : s.off < s.j) :
    exec .nmeaDispatch s =
      report (nmeaKind (nmeaDecode (foundSpan s))) (s.j + 1 - s.off) (s.writeSentenceScratch (foundSpan s)) :=
  (inPass_of_scanning pass).trans (if_pos span)

/-- R106 at a terminator `k` bytes behind the cursor, in the terms of the bytes left. -/
theorem exec_nmeaDispatch_at {k : Nat} (behind : 1 ≤ k) :
    exec .nmeaDispatch { s with j := s.off + k } =
      report (nmeaKind (nmeaDecode ((fetchBytes s).take (k + 1)))) (k + 1)
        ({ s with j := s.off + k }.writeSentenceScratch ((fetchBytes s).take (k + 1))) := by
  have before : s.off < s.off + k := by omega
  have consumed : s.off + k + 1 - s.off = k + 1 := by omega
  have span : foundSpan { s with j := s.off + k } = (fetchBytes s).take (k + 1) := (fetchBytes_take s (k + 1)).symm
  have answer := exec_nmeaDispatch_of_span (s := { s with j := s.off + k }) pass before
  rw [span] at answer
  exact answer.trans (congrArg (fun c => report _ c _) consumed)

/-- A candidate sentence with its marks written runs as NMEA_SPAN (R103 to R106). -/
theorem exec_decodeNmea (dollar : windowByte s s.off = some chDollar) :
    exec (decodeNmea s.maxlen (fetchBytes s)) (markSentence (fetchBytes s) s) = exec .nmeaSpan s := by
  rw [exec_nmeaSpan pass dollar, terminatorOffset_eq, decodeNmea_eq, markSentence]
  cases found : terminator s.maxlen (fetchBytes s) with
  | none =>
    simp only [Option.elim_none, Option.map_none, fetchBytes_length, Nat.sub_le_iff_le_add']
    split_ifs <;> rfl
  | some k =>
    obtain ⟨behind, inside⟩ := lt_length_of_terminator found
    have length : ((fetchBytes s).take (k + 1)).length = k + 1 := by rw [List.length_take]; omega
    rw [Option.elim_some, Option.map_some, Option.elim_some, exec_decodeSpan, length,
      inPass_of_scanning (by rw [writeSentenceScratch_phase]; exact pass)]
    exact (exec_nmeaDispatch_at pass behind).symm

/-- A candidate frame, once recognised, runs as UBX_SPAN behind the flush (R107 to R110). -/
theorem exec_decodeUbx (sync : startsSync (fetchBytes s) = true) :
    exec (decodeUbx (fetchBytes s)) (s.recognise (fetchBytes s)) = exec .ubxSpan s.flushSkip := by
  have sync' : startsSync (fetchBytes s.flushSkip) = true := by rwa [fetchBytes_flushSkip]
  have length := fetchBytes_length s
  rw [recognise_of_sync sync]
  rcases Nat.lt_or_ge (fetchBytes s).length 6 with short | header
  · rw [exec_ubxSpan_of_short (flushSkip_pass pass) sync' (by rw [flushSkip_wlen, flushSkip_off]; omega), if_pos short,
      decodeUbx_of_short short]
  · rw [exec_ubxSpan_of_header (flushSkip_pass pass) sync' (by rw [flushSkip_wlen, flushSkip_off]; omega),
      if_neg (Nat.not_lt.mpr header), decodeUbx_of_header header, fetchBytes_flushSkip]
    cases ubxDecode (fetchBytes s) with
    | accepted m => exact exec_messageInstr m _
    | rejected f => rfl

/-- The decoder answers at every byte of a pass, and what it answers runs as STEP (R56, R101). -/
theorem exec_decoded (left : s.off < s.wlen) :
    ∃ i, decode s.maxlen (fetchBytes s) = .ok i ∧ exec i (s.recognise (fetchBytes s)) = exec .step s := by
  by_cases dollar : (fetchBytes s).head? = some chDollar
  · refine ⟨_, decode_of_dollar dollar s.maxlen, ?_⟩
    have dollar' : windowByte s.flushSkip s.flushSkip.off = some chDollar := by
      rwa [windowByte_flushSkip, flushSkip_off, ← head?_fetchBytes]
    have spans := exec_decodeNmea (flushSkip_pass pass) dollar'
    rw [flushSkip_maxlen, fetchBytes_flushSkip] at spans
    rw [recognise_of_dollar dollar, spans, exec_step_of_dollar pass (head?_fetchBytes s ▸ dollar)]
  · cases sync : startsSync (fetchBytes s) with
    | true =>
      obtain ⟨first, second⟩ := startsSync_fetchBytes.mp sync
      refine ⟨_, decode_of_sync sync s.maxlen, ?_⟩
      rw [exec_decodeUbx pass sync, exec_step_of_sync pass first second]
    | false =>
      have not_sync : ¬ (windowByte s s.off = some sync1 ∧ windowByte s (s.off + 1) = some sync2) := fun h => by
        rw [startsSync_fetchBytes.mpr h] at sync
        cases sync
      rw [recognise_of_other dollar sync]
      obtain ⟨b, bs, front⟩ := List.exists_cons_of_ne_nil (fetchBytes_ne_nil left)
      have step := exec_step_of_other pass left (head?_fetchBytes s ▸ dollar) not_sync
      rw [front] at dollar sync ⊢
      refine ⟨_, decode_of_other (fun h => dollar (congrArg some h)) sync s.maxlen, ?_⟩
      change execSkip b s = _
      rw [execSkip, inPass_of_scanning pass, atByte_of_lt left, step]

end DecodedItem

theorem scanStep_of_decode {s : State} {i : Instr} (h : decode s.maxlen (fetchBytes s) = .ok i) :
    scanStep s = thenFinish (exec i (s.recognise (fetchBytes s))) := by
  simp only [scanStep, h]

/-- One step of a running pass is STEP and the end of the pass, if it is over. -/
theorem blockStep_eq_step {s : State} (pass : s.phase = .scanning) (left : s.off < s.wlen) :
    blockStep s = thenFinish (exec .step s) := by
  obtain ⟨i, decoded, runs⟩ := exec_decoded pass left
  rw [blockStep_scanning pass left, scanStep_of_decode decoded, runs]

/-! ### The result of a step -/

/-- The result of an NMEA candidate at the front of the bytes left (R103 to R106). -/
def sentenceResult (maxlen : Nat) (bs : Bytes) : Result :=
  (terminator maxlen bs).elim
    (if bs.length ≤ maxlen then ⟨.incompleteAtBoundary .nmea, bs.length⟩ else ⟨.malformedSentence, 1⟩)
    fun k => ⟨nmeaKind (nmeaDecode (bs.take (k + 1))), k + 1⟩

/-- The result of an outcome of the frame decoder (R109, R110). -/
def outcomeResult : UbxOutcome → Result
  | .accepted m => ⟨messageKind m, 8 + messageLen m⟩
  | .rejected f => ⟨failureKind f, 2⟩

/-- The result of a UBX candidate at the front of the bytes left (R107 to R110). -/
def frameResult (bs : Bytes) : Result :=
  if bs.length < 6 then ⟨.incompleteAtBoundary .ubx, bs.length⟩ else outcomeResult (ubxDecode bs)

/-- The result a step gives for the bytes left; none for a byte that starts no item (R101). -/
def itemResult (maxlen : Nat) (bs : Bytes) : Option Result :=
  if bs.head? = some chDollar then some (sentenceResult maxlen bs)
  else if startsSync bs then some (frameResult bs)
  else none

theorem itemResult_of_dollar {maxlen : Nat} {bs : Bytes} (dollar : bs.head? = some chDollar) :
    itemResult maxlen bs = some (sentenceResult maxlen bs) := if_pos dollar

theorem itemResult_of_sync {maxlen : Nat} {bs : Bytes} (sync : startsSync bs = true) :
    itemResult maxlen bs = some (frameResult bs) := by
  rw [itemResult, if_neg (head?_ne_dollar_of_sync sync), if_pos sync]

theorem itemResult_of_other {maxlen : Nat} {bs : Bytes} (not_dollar : bs.head? ≠ some chDollar)
    (not_sync : startsSync bs = false) : itemResult maxlen bs = none := by
  rw [itemResult, if_neg not_dollar, not_sync]
  rfl

/-- From `s` to `t` the result `r` is appended, and `pm` is written only where the pass is over (R14, R104, R108). -/
def Appends (r : Result) (s t : State) : Prop := t.results = s.results ++ [r] ∧ (t.pm = s.pm ∨ t.wlen ≤ t.off)

/-- What is reported for the rest of the window stands at its end. -/
theorem appends_incomplete {s : State} (p : Proto) (left : s.off < s.wlen) :
    Appends ⟨.incompleteAtBoundary p, s.wlen - s.off⟩ s
      (after (.incompleteAtBoundary p) (s.wlen - s.off) { s with pm := some p }) :=
  ⟨rfl, .inr (show s.wlen ≤ s.off + (s.wlen - s.off) by omega)⟩

section ItemResults

variable {s t : State} (pass : s.phase = .scanning)

include pass

theorem nmeaSpan_appends (dollar : windowByte s s.off = some chDollar) (ht : exec .nmeaSpan s = .next t) :
    Appends (sentenceResult s.maxlen (fetchBytes s)) s t := by
  have left := lt_wlen_of_windowByte dollar
  have length := fetchBytes_length s
  rw [exec_nmeaSpan pass dollar, terminatorOffset_eq] at ht
  rw [sentenceResult]
  cases found : terminator s.maxlen (fetchBytes s) with
  | some k =>
    obtain ⟨behind, inside⟩ := lt_length_of_terminator found
    rw [found, Option.map_some, Option.elim_some, exec_nmeaDispatch_at pass behind] at ht
    obtain ⟨-, rfl⟩ := report_eq_next.mp ht
    exact ⟨congrArg (· ++ _) (writeSentenceScratch_results _ _), .inl (writeSentenceScratch_pm _ _)⟩
  | none =>
    rw [found, Option.map_none, Option.elim_none] at ht
    rw [Option.elim_none]
    by_cases fits : (fetchBytes s).length ≤ s.maxlen
    · rw [if_pos (show s.wlen ≤ s.off + s.maxlen by omega)] at ht
      obtain rfl := Host.Outcome.next.inj (ht.symm.trans (exec_incompleteInstr .nmea pass left))
      rw [if_pos fits, length]
      exact appends_incomplete .nmea left
    · rw [if_neg (show ¬ s.wlen ≤ s.off + s.maxlen by omega), exec_nmeaOverlong ⟨pass, left⟩] at ht
      obtain rfl := Host.Outcome.next.inj ht
      rw [if_neg fits]
      exact ⟨rfl, .inl rfl⟩

theorem ubxSpan_appends (sync : startsSync (fetchBytes s) = true) (ht : exec .ubxSpan s = .next t) :
    Appends (frameResult (fetchBytes s)) s t := by
  have left := lt_wlen_of_windowByte (startsSync_fetchBytes.mp sync).1
  have length := fetchBytes_length s
  rw [frameResult]
  rcases Nat.lt_or_ge (fetchBytes s).length 6 with short | header
  · rw [exec_ubxSpan_of_short pass sync (by omega)] at ht
    obtain rfl := Host.Outcome.next.inj (ht.symm.trans (exec_incompleteInstr .ubx pass left))
    rw [if_pos short, length]
    exact appends_incomplete .ubx left
  · rw [exec_ubxSpan_of_header pass sync (by omega)] at ht
    rw [if_neg (Nat.not_lt.mpr header)]
    cases decoded : ubxDecode (fetchBytes s) with
    | accepted m =>
      obtain ⟨payload, fits⟩ := messageLen_of_accepted decoded
      rw [decoded, outcomeInstr, exec_ubxAccept payload (passWith_writeFrameScratch _ ⟨pass, by omega⟩)] at ht
      obtain rfl := Host.Outcome.next.inj ht
      exact ⟨congrArg (· ++ _) (writeFrameScratch_results _ s), .inl (writeFrameScratch_pm _ s)⟩
    | rejected f =>
      rw [decoded, outcomeInstr, exec_ubxReject f (passWith_writeFrameScratch _ ⟨pass, by omega⟩)] at ht
      obtain rfl := Host.Outcome.next.inj ht
      exact ⟨congrArg (· ++ _) (writeFrameScratch_results _ s), .inl (writeFrameScratch_pm _ s)⟩

end ItemResults

/-- The one result a candidate appends is the one it reports. -/
theorem Reported.of_appends {r : Result} {k : Kind} {c : Nat} {s t : State} (reported : Reported k c s t) (h : Appends r s t) :
    Reported r.kind r.consumed s t := by
  obtain rfl : ⟨k, c⟩ = r := by simpa using reported.results.symm.trans h.1
  exact reported

/-- A step at an item flushes and reports the item's result; `pm` is left written only where the pass is over (R101, R113). -/
theorem step_of_item {s : State} {r : Result} (pass : s.phase = .scanning)
    (item : itemResult s.maxlen (fetchBytes s) = some r) :
    ∃ t, exec .step s = .next t ∧ Reported r.kind r.consumed s.flushSkip t ∧ (t.pm = s.pm ∨ t.wlen ≤ t.off) := by
  by_cases dollar : (fetchBytes s).head? = some chDollar
  · rw [itemResult_of_dollar dollar, Option.some.injEq] at item
    rw [head?_fetchBytes] at dollar
    obtain ⟨t, k, c, step, span, reported⟩ := step_at_dollar_reports pass dollar
    have dollar' : windowByte s.flushSkip s.flushSkip.off = some chDollar := by rwa [windowByte_flushSkip, flushSkip_off]
    have appends := nmeaSpan_appends (flushSkip_pass pass) dollar' span
    rw [flushSkip_maxlen, fetchBytes_flushSkip, item] at appends
    exact ⟨t, step, reported.of_appends appends, flushSkip_pm s ▸ appends.2⟩
  · cases sync : startsSync (fetchBytes s) with
    | true =>
      rw [itemResult_of_sync sync, Option.some.injEq] at item
      obtain ⟨first, second⟩ := startsSync_fetchBytes.mp sync
      obtain ⟨t, k, c, step, span, reported⟩ := step_at_sync_reports pass first second
      have appends := ubxSpan_appends (flushSkip_pass pass) (by rwa [fetchBytes_flushSkip]) span
      rw [fetchBytes_flushSkip, item] at appends
      exact ⟨t, step, reported.of_appends appends, flushSkip_pm s ▸ appends.2⟩
    | false =>
      rw [itemResult_of_other dollar sync] at item
      cases item

/-- A step at a byte that starts no item counts it. -/
theorem step_of_no_item {s : State} (pass : s.phase = .scanning) (left : s.off < s.wlen)
    (no_item : itemResult s.maxlen (fetchBytes s) = none) :
    exec .step s = .next { s with skip := s.skip + 1, off := s.off + 1 } := by
  refine exec_step_of_other pass left (fun dollar => ?_) fun sync => ?_
  · rw [itemResult_of_dollar (by rwa [head?_fetchBytes])] at no_item
    cases no_item
  · rw [itemResult_of_sync (startsSync_fetchBytes.mpr sync)] at no_item
    cases no_item

/-! ### The obligations -/

/-- Settles O7: the step is defined by the decoder. -/
theorem stepRunsTheDecodedItem : Obligations.StepRunsTheDecodedItem := by
  intro s i quiet pass left decoded
  rw [step, machineStep_of_empty quiet, blockStep_scanning pass left, scanStep_of_decode decoded]

/-- Settles O8: at each byte the decoded item, once recognised, runs as the branch of STEP that the byte selects. -/
theorem stepIsTheScannerStep : Obligations.StepIsTheScannerStep := by
  intro s quiet pass left
  rw [step, machineStep_of_empty quiet, blockStep_eq_step pass left]

/-- Settles O12: a counted byte or a result's bytes, at least one and all in the window. -/
theorem stepMovesTheCursorForward : Obligations.StepMovesTheCursorForward := by
  intro s t ht
  obtain ⟨pass, left⟩ := left_of_exec_step ht
  obtain ⟨u, hu, stepped⟩ := step_stepped pass left
  obtain rfl := Host.Outcome.next.inj (ht.symm.trans hu)
  cases stepped with
  | counted => exact ⟨Nat.lt_succ_self _, left⟩
  | reported reported =>
    have positive := reported.positive
    have inside := reported.inside
    rw [reported.off, reported.wlen]
    rw [flushSkip_off] at inside ⊢
    exact ⟨by omega, inside⟩

end Sys2Proof.Proofs

/-! PROOFS. The steps of the machine (R10, R13, R18, R26, R100, R129, R155): the invariant over a step of the block and over each move of
the host, that every step completes, and what the host's moves do. -/

namespace Sys2Proof.Proofs

open Sys2Proof.Machine

/-! ### The invariant, phase by phase -/

theorem accounted_of_scanning {s : State} (pass : s.phase = .scanning) :
    accounted s ↔ s.off < s.wlen ∧ s.off = consumedSum s.results + s.skip := by
  rw [accounted, pass]

theorem accounted_of_idle {s : State} (idle : s.phase = .idle) : accounted s ↔ consumedSum s.results = s.wlen := by
  rw [accounted, idle]

theorem left_of_inv {s : State} (inv : Inv s) (pass : s.phase = .scanning) : s.off < s.wlen :=
  ((accounted_of_scanning pass).mp inv.accounted).1

theorem cursorAccounted_of_inv {s : State} (inv : Inv s) (pass : s.phase = .scanning) : CursorAccounted s := by
  obtain ⟨left, cursor⟩ := (accounted_of_scanning pass).mp inv.accounted
  exact ⟨pass, left.le, ⟨_, ⟨rfl, inv.sound, inv.separated⟩, cursor⟩, inv.pending pass⟩

/-- In a running pass with bytes left the invariant is the account of the cursor, beside what no step writes. -/
theorem inv_of_cursorAccounted {s : State} (mem : memorySound s) (maxlen : 1 ≤ s.maxlen) (rom : s.rom = romContents)
    (account : CursorAccounted s) (left : s.off < s.wlen) (pm : s.pm = none) : Inv s := by
  obtain ⟨n, ⟨sum, sound, separated⟩, cursor⟩ := account.stream
  exact
    { mem, maxlen, rom, sound, separated
      accounted := (accounted_of_scanning account.pass).mpr ⟨left, by rw [sum, cursor]⟩
      pending := fun _ => account.pending
      partialMatch := fun _ => pm
      discarded := fun idle => by rw [account.pass] at idle; cases idle }

/-- The end of the pass at the window's end: the flushed stream accounts for the window, and the cursor is discarded (R111, R112). -/
theorem inv_endPass {s : State} (mem : memorySound s) (maxlen : 1 ≤ s.maxlen) (rom : s.rom = romContents)
    (account : CursorAccounted s) (done : s.wlen ≤ s.off) : Inv s.endPass := by
  obtain ⟨sum, sound, separated⟩ := account.flushed
  have at_end : s.off = s.wlen := le_antisymm account.inside done
  exact
    { sound, separated
      mem := by rwa [memorySound, endPass_mem, endPass_wlen]
      maxlen := by rwa [endPass_maxlen]
      rom := by rwa [endPass_rom]
      accounted := (accounted_of_idle (endPass_phase s)).mpr (by rw [endPass_wlen, ← at_end, endPass_results, sum])
      pending := nofun
      partialMatch := nofun
      discarded := fun _ => (endPass_freshCursor s).symm }

/-- An idle block with what no step writes, a stream that accounts for the window, and a discarded cursor has the invariant. -/
theorem inv_of_idle {s : State} (idle : s.phase = .idle) (mem : memorySound s) (maxlen : 1 ≤ s.maxlen) (rom : s.rom = romContents)
    (stream : accountsFor s.wlen s.results) (discarded : cursorDiscarded s) : Inv s := by
  obtain ⟨sum, sound, separated⟩ := stream
  have no_pass {P : Prop} (pass : s.phase = .scanning) : P := by
    rw [idle] at pass
    cases pass
  exact
    { mem, maxlen, rom, sound, separated
      accounted := (accounted_of_idle idle).mpr sum
      pending := no_pass
      partialMatch := no_pass
      discarded := fun _ => discarded }

/-- An update of what is no register of the cursor leaves the cursor discarded. -/
theorem cursorDiscarded_update {s : State} (h : cursorDiscarded s) (f : State → State)
    (apart : ∀ u, (f u).freshCursor = f u.freshCursor) : cursorDiscarded (f s) :=
  (congrArg f h).trans (apart s).symm

/-- The invariant says nothing of the host's pending moves. -/
theorem inv_setInbox {s : State} (inv : Inv s) (q : List HostMove) : Inv { s with inbox := q } :=
  { inv with
    accounted := inv.accounted
    discarded := fun idle => cursorDiscarded_update (inv.discarded idle) (fun u => { u with inbox := q }) fun _ => rfl }

/-! ### A step of the block -/

/-- A step of a pass keeps the invariant: it keeps the account, and `pm` is left written only where the pass ends. -/
theorem step_keeps_inv {s : State} (inv : Inv s) (pass : s.phase = .scanning) :
    ∃ t, exec .step s = .next t ∧ Inv t.finishPass := by
  have left := left_of_inv inv pass
  obtain ⟨t, ht, stepped, pm⟩ : ∃ t, exec .step s = .next t ∧ Stepped s t ∧ (t.pm = s.pm ∨ t.wlen ≤ t.off) := by
    cases item : itemResult s.maxlen (fetchBytes s) with
    | none => exact ⟨_, step_of_no_item pass left item, .counted left, .inl rfl⟩
    | some r =>
      obtain ⟨t, ht, reported, pm⟩ := step_of_item pass item
      exact ⟨t, ht, .reported reported, pm⟩
  obtain ⟨account, -⟩ := (cursorAccounted_of_inv inv pass).stepped stepped
  have kept := stepped.extended
  have mem : memorySound t := by
    rw [memorySound, kept.mem, kept.wlen]
    exact inv.mem
  have maxlen : 1 ≤ t.maxlen := kept.maxlen ▸ inv.maxlen
  have rom : t.rom = romContents := kept.rom.trans inv.rom
  refine ⟨t, ht, ?_⟩
  rcases Nat.lt_or_ge t.off t.wlen with more | done
  · rw [finishPass_of_lt more]
    exact inv_of_cursorAccounted mem maxlen rom account more
      ((pm.resolve_right (Nat.not_le.mpr more)).trans (inv.partialMatch pass))
  · rw [finishPass_of_le account.pass done]
    exact inv_endPass mem maxlen rom account done

theorem blockStep_keeps_inv {s : State} (inv : Inv s) : ∃ t, blockStep s = .next t ∧ Inv t := by
  cases phase : s.phase with
  | idle => exact ⟨s, blockStep_idle phase, inv⟩
  | scanning =>
    obtain ⟨t, ht, kept⟩ := step_keeps_inv inv phase
    exact ⟨_, by rw [blockStep_eq_step phase (left_of_inv inv phase), ht, thenFinish_next], kept⟩

/-! ### The moves of the host -/

theorem inv_reset : Inv State.reset :=
  inv_of_idle rfl rfl (by decide) rfl accountsFor_nil rfl

theorem inv_powerOn (s : State) (q : List HostMove) : Inv (s.powerOn q) :=
  inv_of_idle rfl rfl (show 1 ≤ Config.maxlenDefault by decide) rfl accountsFor_nil rfl

theorem inv_give {s : State} (inv : Inv s) (r : Ret) : Inv (s.give r) :=
  { inv with
    accounted := inv.accounted
    discarded := fun idle => cursorDiscarded_update (inv.discarded idle) (State.give r) fun _ => rfl }

theorem inv_setMaxlen {s : State} (inv : Inv s) {v : Nat} (positive : 1 ≤ v) : Inv { s with maxlen := v } :=
  { inv with
    maxlen := positive
    accounted := inv.accounted
    discarded := fun idle => cursorDiscarded_update (inv.discarded idle) (fun u => { u with maxlen := v }) fun _ => rfl }

/-- A pass begins with nothing read; without a window the one result accounts for its 0 bytes (R100, R139). -/
theorem inv_startPass {s : State} (inv : Inv s) (idle : s.phase = .idle) (w : Option Bytes) : Inv (s.startPass w) := by
  rcases startPass_cases w s with ⟨-, hs⟩ | ⟨b, bs, -, hs⟩ <;> rw [hs]
  · exact inv_of_idle idle rfl inv.maxlen inv.rom ⟨rfl, rfl, rfl⟩
      (cursorDiscarded_update (inv.discarded idle)
        (fun u => { u with mem := [], wlen := 0, results := [] }.emit .invalidWindow 0) fun _ => rfl)
  · exact inv_of_cursorAccounted (memoryLoad_wf (b :: bs)) inv.maxlen inv.rom
      ⟨rfl, Nat.zero_le _, ⟨0, accountsFor_nil, rfl⟩, rfl⟩ (Nat.zero_lt_succ _) rfl

theorem writeMaxlen_of_pos {v : Nat} (positive : 1 ≤ v) (s : State) : writeMaxlen v s = .next { s with maxlen := v } :=
  if_neg (Nat.ne_of_gt positive)

/-- Every move of the host keeps the invariant, and every step completes but for the write of 0 (R26, U5). -/
theorem machineStep_keeps_inv {s : State} (inv : Inv s)
    (writable : s.phase = .idle → ∀ q, s.inbox ≠ .writeMaxlen 0 :: q) : ∃ t, machineStep s = .next t ∧ Inv t := by
  have waiting {m : HostMove} {q : List HostMove} (hi : s.inbox = m :: q) (pass : s.phase = .scanning)
      (hm : (∃ v, m = .writeMaxlen v) ∨ ∃ w, m = .start w) : ∃ t, machineStep s = .next t ∧ Inv t := by
    rw [machineStep_of_waiting hi pass hm]
    exact blockStep_keeps_inv inv
  cases hi : s.inbox with
  | nil =>
    rw [machineStep_of_empty hi]
    exact blockStep_keeps_inv inv
  | cons m q =>
    cases m with
    | wait =>
      rw [machineStep_of_wait hi]
      exact blockStep_keeps_inv (inv_setInbox inv q)
    | reset => exact ⟨_, machineStep_of_reset hi, inv_powerOn s q⟩
    | romRead k => exact ⟨_, machineStep_of_romRead hi, inv_give (inv_setInbox inv q) _⟩
    | start w =>
      cases phase : s.phase with
      | idle => exact ⟨_, machineStep_of_start hi phase, inv_startPass (inv_setInbox inv q) phase w⟩
      | scanning => exact waiting hi phase (.inr ⟨w, rfl⟩)
    | writeMaxlen v =>
      cases phase : s.phase with
      | idle =>
        have positive : 1 ≤ v := Nat.one_le_iff_ne_zero.mpr fun zero => writable phase q (zero ▸ hi)
        refine ⟨_, ?_, inv_setMaxlen (inv_setInbox inv q) positive⟩
        rw [machineStep_of_writeMaxlen hi phase, writeMaxlen_of_pos positive]
      | scanning => exact waiting hi phase (.inl ⟨v, rfl⟩)

/-! ### The block does not look at the pending moves -/

/-- The same outcome with the host's moves `q` pending. -/
def withInbox (q : List HostMove) : Out → Out
  | .next t => .next { t with inbox := q }
  | .fault r => .fault r
  | .refused r => .refused r

section PendingMoves

variable (q : List HostMove) (s : State)

theorem report_withInbox (k : Kind) (c : Nat) : report k c { s with inbox := q } = withInbox q (report k c s) := by
  simp only [report]
  split_ifs <;> rfl

theorem flushSkip_setInbox : { s with inbox := q }.flushSkip = { s.flushSkip with inbox := q } := by
  simp only [State.flushSkip]
  split_ifs <;> rfl

theorem writeFrameMarks_setInbox (S : Bytes) :
    { s with inbox := q }.writeFrameMarks S = { s.writeFrameMarks S with inbox := q } := by
  unfold State.writeFrameMarks
  split_ifs
  · cases starIndex S <;> rfl
  · rfl

theorem writeSentenceScratch_setInbox (S : Bytes) :
    { s with inbox := q }.writeSentenceScratch S = { s.writeSentenceScratch S with inbox := q } := by
  cases framed : nmeaFrame S with
  | none => rw [writeSentenceScratch_of_unframed framed, writeSentenceScratch_of_unframed framed, writeFrameMarks_setInbox]
  | some frame => rw [writeSentenceScratch_of_framed framed, writeSentenceScratch_of_framed framed]

theorem writeFrameScratch_setInbox (S : Bytes) :
    { s with inbox := q }.writeFrameScratch S = { s.writeFrameScratch S with inbox := q } := by
  unfold State.writeFrameScratch
  split_ifs <;> rfl

theorem endPass_setInbox : { s with inbox := q }.endPass = { s.endPass with inbox := q } := by
  rw [State.endPass, flushSkip_setInbox]
  rfl

theorem finishPass_setInbox : { s with inbox := q }.finishPass = { s.finishPass with inbox := q } := by
  simp only [State.finishPass, endPass_setInbox]
  split_ifs <;> rfl

theorem thenFinish_withInbox (o : Out) : thenFinish (withInbox q o) = withInbox q (thenFinish o) := by
  cases o with
  | next t => exact congrArg Host.Outcome.next (finishPass_setInbox q t)
  | fault r => rfl
  | refused r => rfl

variable {s} (pass : s.phase = .scanning)

include pass

theorem exec_nmeaSpan_withInbox (dollar : windowByte s s.off = some chDollar) :
    exec .nmeaSpan { s with inbox := q } = withInbox q (exec .nmeaSpan s) := by
  have left := lt_wlen_of_windowByte dollar
  have same : terminatorOffset { s with inbox := q } = terminatorOffset s := rfl
  rw [exec_nmeaSpan pass dollar, exec_nmeaSpan (s := { s with inbox := q }) pass dollar, same]
  cases found : terminatorOffset s with
  | some k =>
    obtain ⟨span, -⟩ := terminatorOffset_bounds found
    rw [Option.elim_some, Option.elim_some, exec_nmeaDispatch_of_span (s := { s with j := k }) pass span, ← report_withInbox,
      ← writeSentenceScratch_setInbox]
    exact exec_nmeaDispatch_of_span (s := { s with inbox := q, j := k }) pass span
  | none =>
    rw [Option.elim_none, Option.elim_none]
    split_ifs
    · exact (exec_incompleteInstr .nmea (s := { s with inbox := q }) pass left).trans
        (congrArg (withInbox q) (exec_incompleteInstr .nmea pass left)).symm
    · rw [exec_nmeaOverlong (s := { s with inbox := q }) ⟨pass, left⟩, exec_nmeaOverlong ⟨pass, left⟩]
      rfl

theorem exec_outcomeInstr_withInbox (o : UbxOutcome) :
    exec (outcomeInstr o) { s with inbox := q } = withInbox q (exec (outcomeInstr o) s) := by
  cases o with
  | accepted m =>
    change execUbxAccept m { s with inbox := q } = withInbox q (execUbxAccept m s)
    rw [execUbxAccept, execUbxAccept, inPass_of_scanning pass, inPass_of_scanning (s := { s with inbox := q }) pass,
      report_withInbox]
    unfold withPayload
    split_ifs <;> rfl
  | rejected f =>
    change execUbxReject f { s with inbox := q } = withInbox q (execUbxReject f s)
    rw [execUbxReject, execUbxReject, inPass_of_scanning pass, inPass_of_scanning (s := { s with inbox := q }) pass,
      report_withInbox]

theorem exec_ubxSpan_withInbox (sync : startsSync (fetchBytes s) = true) :
    exec .ubxSpan { s with inbox := q } = withInbox q (exec .ubxSpan s) := by
  have left := lt_wlen_of_windowByte (startsSync_fetchBytes.mp sync).1
  rcases Nat.lt_or_ge s.wlen (s.off + 6) with short | header
  · rw [exec_ubxSpan_of_short pass sync short, exec_ubxSpan_of_short (s := { s with inbox := q }) pass sync short]
    exact (exec_incompleteInstr .ubx (s := { s with inbox := q }) pass left).trans
      (congrArg (withInbox q) (exec_incompleteInstr .ubx pass left)).symm
  · rw [exec_ubxSpan_of_header pass sync header, exec_ubxSpan_of_header (s := { s with inbox := q }) pass sync header,
      writeFrameScratch_setInbox]
    exact exec_outcomeInstr_withInbox q (s := s.writeFrameScratch (fetchBytes s)) ((writeFrameScratch_phase _ s).trans pass) _

/-- STEP looks at the window, the cursor and the bound only. -/
theorem exec_step_withInbox (left : s.off < s.wlen) : exec .step { s with inbox := q } = withInbox q (exec .step s) := by
  by_cases dollar : windowByte s s.off = some chDollar
  · rw [exec_step_of_dollar pass dollar, exec_step_of_dollar (s := { s with inbox := q }) pass dollar, flushSkip_setInbox]
    exact exec_nmeaSpan_withInbox q (flushSkip_pass pass) (by rwa [windowByte_flushSkip, flushSkip_off])
  · by_cases sync : windowByte s s.off = some sync1 ∧ windowByte s (s.off + 1) = some sync2
    · rw [exec_step_of_sync pass sync.1 sync.2, exec_step_of_sync (s := { s with inbox := q }) pass sync.1 sync.2,
        flushSkip_setInbox]
      exact exec_ubxSpan_withInbox q (flushSkip_pass pass) (by rwa [fetchBytes_flushSkip, startsSync_fetchBytes])
    · rw [exec_step_of_other pass left dollar sync, exec_step_of_other (s := { s with inbox := q }) pass left dollar sync]
      rfl

end PendingMoves

theorem blockStep_at_end {s : State} (pass : s.phase = .scanning) (done : s.wlen ≤ s.off) : blockStep s = .next s.endPass := by
  simp [blockStep, pass, Nat.not_lt.mpr done]

/-- What a step of the block finds: no pass, a byte at the cursor, or the window's end. -/
theorem blockStep_places (s : State) :
    s.phase = .idle ∨ (s.phase = .scanning ∧ s.off < s.wlen) ∨ (s.phase = .scanning ∧ s.wlen ≤ s.off) := by
  cases s.phase with
  | idle => exact .inl rfl
  | scanning => exact .inr ((Nat.lt_or_ge s.off s.wlen).imp (⟨rfl, ·⟩) (⟨rfl, ·⟩))

/-- A step of the block is the same whatever moves are pending. -/
theorem blockStep_withInbox (q : List HostMove) (s : State) : blockStep { s with inbox := q } = withInbox q (blockStep s) := by
  rcases blockStep_places s with idle | ⟨pass, left⟩ | ⟨pass, done⟩
  · rw [blockStep_idle idle, blockStep_idle (s := { s with inbox := q }) idle, withInbox]
  · rw [blockStep_eq_step pass left, blockStep_eq_step (s := { s with inbox := q }) pass left, exec_step_withInbox q pass left,
      thenFinish_withInbox]
  · rw [blockStep_at_end pass done, blockStep_at_end (s := { s with inbox := q }) pass done, endPass_setInbox, withInbox]

theorem extends_finishPass (s : State) : Extends s s.finishPass := by
  unfold State.finishPass
  split_ifs
  · exact extends_endPass s
  · exact extends_of_samePass rfl

/-- The block's own step completes in every state, and keeps what none of its instructions writes. -/
theorem blockStep_extends (s : State) : ∃ t, blockStep s = .next t ∧ Extends s t := by
  rcases blockStep_places s with idle | ⟨pass, left⟩ | ⟨pass, done⟩
  · exact ⟨s, blockStep_idle idle, extends_of_samePass rfl⟩
  · obtain ⟨t, ht, stepped⟩ := step_stepped pass left
    exact ⟨_, by rw [blockStep_eq_step pass left, ht, thenFinish_next], stepped.extended.trans (extends_finishPass t)⟩
  · exact ⟨s.endPass, blockStep_at_end pass done, extends_endPass s⟩

/-! ### The obligations -/

/-- Settles O9: the step of each move keeps it, and the write that would not has no next state. -/
theorem everyStepKeepsTheInvariant : Obligations.EveryStepKeepsTheInvariant := by
  intro s t inv ht
  have writable (idle : s.phase = .idle) (q : List HostMove) : s.inbox ≠ .writeMaxlen 0 :: q := fun hi => by
    rw [step, machineStep_of_writeMaxlen hi idle] at ht
    cases ht
  obtain ⟨u, hu, kept⟩ := machineStep_keeps_inv inv writable
  rwa [Host.Outcome.next.inj (ht.symm.trans hu)]

/-- Settles O11: the invariant puts a byte at the cursor of every running pass, and STEP completes there. -/
theorem everyStepCompletes : Obligations.EveryStepCompletes := by
  intro s inv writable
  obtain ⟨t, ht, -⟩ := machineStep_keeps_inv inv writable
  exact ⟨t, ht⟩

/-- Settles O10: the reset state, clause by clause. -/
theorem resetHasTheInvariant : Obligations.ResetHasTheInvariant := ⟨inv_reset, rfl, rfl, rfl, rfl⟩

/-- Settles O17: what a move does is its arm of the step, and the block's own step is the same with moves pending. -/
theorem hostMovesTakeEffect : Obligations.HostMovesTakeEffect := by
  refine ⟨fun s v q hi idle => ⟨fun positive => ?_, ?_⟩, fun s k q hi => machineStep_of_romRead hi, fun s m q hi pass hm => ?_,
    fun s q hi => ?_⟩
  · rw [step, machineStep_of_writeMaxlen hi idle, writeMaxlen_of_pos positive]
  · rintro rfl
    rw [step, machineStep_of_writeMaxlen hi idle]
    rfl
  · obtain ⟨t, ht, kept⟩ := blockStep_extends { s with inbox := [] }
    have pending := blockStep_withInbox s.inbox { s with inbox := [] }
    rw [ht] at pending
    exact ⟨t, ht, (machineStep_of_waiting hi pass hm).trans pending, kept.maxlen⟩
  · obtain ⟨t, ht, -⟩ := blockStep_extends { s with inbox := [] }
    have pending := blockStep_withInbox q { s with inbox := [] }
    rw [ht] at pending
    exact ⟨t, ht, (machineStep_of_wait hi).trans pending⟩

/-- Settles O5: the cells START loads read back, and the fresh cursor stands at offset 0. -/
theorem lentWindowReadsBack : Obligations.LentWindowReadsBack := by
  intro s bs q a idle hi some_bytes
  refine ⟨_, machineStep_of_start hi idle, ?_⟩
  rcases startPass_cases (some bs) { s with inbox := q } with ⟨no_window, -⟩ | ⟨b, bs', window, hs⟩
  · rcases no_window with h | h
    · cases h
    · exact absurd (Option.some.inj h) some_bytes
  · obtain rfl := Option.some.inj window
    rw [hs]
    exact ⟨rfl, memoryLoad_wf (b :: bs'), windowByte_of_load rfl rfl a, fetchBytes_of_load rfl rfl⟩

/-- Settles O16: the two cases of the beginning of a pass. -/
theorem startBeginsAFreshPass : Obligations.StartBeginsAFreshPass := by
  intro s q idle
  refine ⟨fun b bs hi => ⟨_, machineStep_of_start hi idle, rfl, rfl, rfl, rfl, rfl, rfl, rfl, rfl, rfl, rfl⟩, ?_⟩
  rintro (hi | hi) <;> exact ⟨_, machineStep_of_start hi idle, idle, rfl, rfl, rfl, rfl, rfl, rfl⟩

/-- Settles O18: a reset leaves the reset state but for the host's moves and what was handed over. -/
theorem resetAbandonsThePass : Obligations.ResetAbandonsThePass := fun _ _ hi =>
  ⟨_, machineStep_of_reset hi, rfl, rfl, rfl, rfl, rfl, rfl⟩

end Sys2Proof.Proofs

/-! PROOFS. The whole pass (R100, R111, R112, R114): the loop of SCAN gives the results of the listing, by induction on its fuel, and the
machine's steps make the loop. -/

namespace Sys2Proof.Proofs

open Sys2Proof.Machine

/-! ### The listing, step by step -/

/-- The result of a pending run of unrecognised bytes, if there is one (R102). -/
def pendingRun (skip : Nat) : List Result := if 0 < skip then [⟨.unrecognizedBytes, skip⟩] else []

/-- At the end of the bytes only the pending run is left. -/
theorem listingFrom_nil (maxlen fuel skip : Nat) : listingFrom maxlen fuel skip [] = pendingRun skip := by
  cases fuel <;> rfl

theorem listingFrom_of_no_item {maxlen : Nat} {b : Byte} {rest : Bytes} (no_item : itemResult maxlen (b :: rest) = none)
    (fuel skip : Nat) : listingFrom maxlen (fuel + 1) skip (b :: rest) = listingFrom maxlen fuel (skip + 1) rest := by
  have not_dollar : b ≠ chDollar := by
    rintro rfl
    rw [itemResult_of_dollar rfl] at no_item
    cases no_item
  have not_sync : ¬ startsSync (b :: rest) = true := fun sync => by
    rw [itemResult_of_sync sync] at no_item
    cases no_item
  rw [listingFrom, if_neg not_dollar, if_neg not_sync]

theorem listingFrom_of_dollar (maxlen fuel skip : Nat) (rest : Bytes) :
    listingFrom maxlen (fuel + 1) skip (chDollar :: rest) =
      pendingRun skip ++ sentenceResult maxlen (chDollar :: rest) ::
        listingFrom maxlen fuel 0 ((chDollar :: rest).drop (sentenceResult maxlen (chDollar :: rest)).consumed) := by
  rw [listingFrom, if_pos rfl, sentenceResult, terminator]
  cases findByte chLF (chDollar :: rest) 1 (min (chDollar :: rest).length maxlen) with
  | some k => rfl
  | none =>
    rw [Option.elim_none]
    by_cases fits : (chDollar :: rest).length ≤ maxlen
    · rw [if_pos fits, if_pos fits, List.drop_length, listingFrom_nil]
      rfl
    · rw [if_neg fits, if_neg fits]
      rfl

theorem listingFrom_of_sync {maxlen : Nat} {b : Byte} {rest : Bytes} (sync : startsSync (b :: rest) = true) (fuel skip : Nat) :
    listingFrom maxlen (fuel + 1) skip (b :: rest) =
      pendingRun skip ++ frameResult (b :: rest) ::
        listingFrom maxlen fuel 0 ((b :: rest).drop (frameResult (b :: rest)).consumed) := by
  have not_dollar : b ≠ chDollar := fun h => head?_ne_dollar_of_sync sync (congrArg some h)
  rw [listingFrom, if_neg not_dollar, if_pos sync, frameResult]
  by_cases short : (b :: rest).length < 6
  · rw [if_pos short, List.drop_length, listingFrom_nil]
    exact if_pos short
  · rw [if_neg short]
    refine (if_neg short).trans ?_
    cases ubxDecode (b :: rest) <;> rfl

/-- The listing at an item: the pending run, the item's result, and the listing behind its bytes (R114). -/
theorem listingFrom_of_item {maxlen : Nat} {bs : Bytes} {r : Result} (item : itemResult maxlen bs = some r) (fuel skip : Nat) :
    listingFrom maxlen (fuel + 1) skip bs = pendingRun skip ++ r :: listingFrom maxlen fuel 0 (bs.drop r.consumed) := by
  cases bs with
  | nil => cases item
  | cons b rest =>
    by_cases dollar : b = chDollar
    · subst dollar
      rw [itemResult_of_dollar rfl, Option.some.injEq] at item
      rw [listingFrom_of_dollar, item]
    · have dollar' : (b :: rest).head? ≠ some chDollar := fun h => dollar (Option.some.inj h)
      cases sync : startsSync (b :: rest) with
      | true =>
        rw [itemResult_of_sync sync, Option.some.injEq] at item
        rw [listingFrom_of_sync sync, item]
      | false =>
        rw [itemResult_of_other dollar' sync] at item
        cases item

/-! ### The loop of SCAN gives the listing -/

/-- The window, the configuration, the ROM, the host's moves and the caller's value are as before, and the results `R` are appended to R
and handed over. -/
structure Emits (R : List Result) (s t : State) : Prop where
  mem : t.mem = s.mem
  wlen : t.wlen = s.wlen
  maxlen : t.maxlen = s.maxlen
  rom : t.rom = s.rom
  inbox : t.inbox = s.inbox
  ret : t.ret = s.ret
  results : t.results = s.results ++ R
  emitted : t.emitted = s.emitted ++ R

theorem Emits.trans {R R' : List Result} {s t u : State} (h : Emits R s t) (h' : Emits R' t u) : Emits (R ++ R') s u :=
  ⟨h'.mem.trans h.mem, h'.wlen.trans h.wlen, h'.maxlen.trans h.maxlen, h'.rom.trans h.rom, h'.inbox.trans h.inbox,
    h'.ret.trans h.ret, by rw [h'.results, h.results, List.append_assoc], by rw [h'.emitted, h.emitted, List.append_assoc]⟩

theorem emits_flushSkip (s : State) : Emits (pendingRun s.skip) s s.flushSkip :=
  ⟨flushSkip_mem s, flushSkip_wlen s, flushSkip_maxlen s, flushSkip_rom s, flushSkip_inbox s, flushSkip_ret s,
    flushSkip_results s, flushSkip_emitted s⟩

theorem emits_endPass (s : State) : Emits (pendingRun s.skip) s s.endPass :=
  ⟨endPass_mem s, endPass_wlen s, endPass_maxlen s, endPass_rom s, endPass_inbox s, endPass_ret s,
    flushSkip_results s, flushSkip_emitted s⟩

theorem emits_counted (s : State) : Emits [] s { s with skip := s.skip + 1, off := s.off + 1 } :=
  ⟨rfl, rfl, rfl, rfl, rfl, rfl, (List.append_nil _).symm, (List.append_nil _).symm⟩

theorem Reported.emits {k : Kind} {c : Nat} {s t : State} (h : Reported k c s t) : Emits [⟨k, c⟩] s t := by
  rw [h.frame]
  exact ⟨rfl, rfl, rfl, rfl, rfl, rfl, rfl, rfl⟩

theorem execStep_of_exec {s : State} {o : Out} (h : exec .step s = o) : execStep s = o := h

theorem scanLoop_at_end {s : State} (pass : s.phase = .scanning) (done : s.wlen ≤ s.off) (fuel : Nat) :
    scanLoop fuel s = .next s.endPass := by
  have ends : execScanEnd s = .next s.endPass := exec_scanEnd pass done
  cases fuel with
  | zero => exact ends
  | succ fuel => rw [scanLoop, if_neg (Nat.not_lt.mpr done), ends]

theorem scanLoop_succ {s t : State} (left : s.off < s.wlen) (ht : exec .step s = .next t) (fuel : Nat) :
    scanLoop (fuel + 1) s = scanLoop fuel t := by
  rw [scanLoop, if_pos left, execStep_of_exec ht]

/-- From `s` the loop ends the pass and gives the results of the listing from its cursor on. -/
def GivesListing (fuel : Nat) (s : State) : Prop :=
  ∃ t, scanLoop fuel s = .next t ∧ t.phase = .idle ∧ Emits (listingFrom s.maxlen fuel s.skip (fetchBytes s)) s t

theorem givesListing_at_end {s : State} (pass : s.phase = .scanning) (done : s.wlen ≤ s.off) (fuel : Nat) :
    GivesListing fuel s := by
  rw [GivesListing, fetchBytes_eq_nil done, listingFrom_nil]
  exact ⟨_, scanLoop_at_end pass done fuel, rfl, emits_endPass s⟩

/-- A counted byte moves from the bytes left to the pending run. -/
theorem givesListing_of_counted {fuel : Nat} {s : State} (pass : s.phase = .scanning) (left : s.off < s.wlen)
    (no_item : itemResult s.maxlen (fetchBytes s) = none)
    (rest : GivesListing fuel { s with skip := s.skip + 1, off := s.off + 1 }) : GivesListing (fuel + 1) s := by
  obtain ⟨b, bs, front⟩ := List.exists_cons_of_ne_nil (fetchBytes_ne_nil left)
  have behind : fetchBytes { s with skip := s.skip + 1, off := s.off + 1 } = bs := by
    have dropped : fetchBytes { s with skip := s.skip + 1, off := s.off + 1 } = (fetchBytes s).drop 1 := fetchBytes_drop rfl rfl rfl
    rw [dropped, front, List.drop_one, List.tail_cons]
  obtain ⟨t, ht, idle, emits⟩ := rest
  rw [behind] at emits
  have taken := scanLoop_succ left (step_of_no_item pass left no_item) fuel
  rw [front] at no_item
  rw [GivesListing, front, listingFrom_of_no_item no_item]
  exact ⟨t, taken.trans ht, idle, (emits_counted s).trans emits⟩

/-- A reported item gives the pending run and its own result, and the listing goes on behind its bytes. -/
theorem givesListing_of_reported {fuel : Nat} {s t : State} {r : Result} (left : s.off < s.wlen) (step : exec .step s = .next t)
    (item : itemResult s.maxlen (fetchBytes s) = some r) (reported : Reported r.kind r.consumed s.flushSkip t)
    (rest : GivesListing fuel t) : GivesListing (fuel + 1) s := by
  have sent := (emits_flushSkip s).trans reported.emits
  have cursor : t.off = s.off + r.consumed := reported.off.trans (by rw [flushSkip_off])
  have no_run : t.skip = 0 := reported.skip.trans (flushSkip_skip s)
  obtain ⟨u, hu, idle, emits⟩ := rest
  rw [fetchBytes_drop sent.mem sent.wlen cursor, sent.maxlen, no_run] at emits
  rw [GivesListing, scanLoop_succ left step, listingFrom_of_item item]
  have all := sent.trans emits
  rw [List.append_assoc] at all
  exact ⟨u, hu, idle, all⟩

/-- With as much fuel as bytes left the loop gives the listing: each step takes at least one of them (R113). -/
theorem scanLoop_givesListing {fuel : Nat} {s : State} (pass : s.phase = .scanning) (inside : s.off ≤ s.wlen)
    (enough : s.wlen - s.off ≤ fuel) : GivesListing fuel s := by
  induction fuel generalizing s with
  | zero => exact givesListing_at_end pass (by omega) 0
  | succ fuel ih =>
    rcases inside.lt_or_eq with left | done
    · cases item : itemResult s.maxlen (fetchBytes s) with
      | none => exact givesListing_of_counted pass left item (ih pass left (show s.wlen - (s.off + 1) ≤ fuel by omega))
      | some r =>
        obtain ⟨t, step, reported, -⟩ := step_of_item pass item
        have forward := stepMovesTheCursorForward s t step
        have window : t.wlen = s.wlen := reported.wlen.trans (flushSkip_wlen s)
        have pass' : t.phase = .scanning := reported.phase.trans (flushSkip_pass pass)
        exact givesListing_of_reported left step item reported (ih pass' forward.2 (by omega))
    · exact givesListing_at_end pass done.ge (fuel + 1)

/-! ### The machine's steps make the loop -/

theorem run_idle {s : State} (idle : s.phase = .idle) (quiet : s.inbox = []) (n : Nat) : Sys2Proof.core.run n s = .next s := by
  induction n with
  | zero => rfl
  | succ n ih =>
    have still : step s = .next s := (machineStep_of_empty quiet).trans (blockStep_idle idle)
    rw [run_succ still, ih]

/-- In a running pass with no move pending, as many steps as bytes left reach what the loop reaches: the step that takes the last item
ends the pass, and the steps left over change nothing. -/
theorem run_eq_scanLoop {n : Nat} {s : State} (pass : s.phase = .scanning) (quiet : s.inbox = []) (left : s.off < s.wlen)
    (enough : s.wlen - s.off ≤ n) : Sys2Proof.core.run n s = scanLoop n s := by
  induction n generalizing s with
  | zero => omega
  | succ n ih =>
    obtain ⟨t, ht, stepped⟩ := step_stepped pass left
    have forward := stepMovesTheCursorForward s t ht
    have kept := stepped.extended
    have quiet' : t.inbox = [] := kept.inbox.trans quiet
    have pass' : t.phase = .scanning := by
      cases stepped with
      | counted => exact pass
      | reported reported => exact reported.phase.trans (flushSkip_pass pass)
    have taken : step s = .next t.finishPass := by
      rw [stepIsTheScannerStep s quiet pass left, ht, thenFinish_next]
    have window := kept.wlen
    rw [run_succ taken, scanLoop_succ left ht]
    rcases Nat.lt_or_ge t.off t.wlen with more | done
    · rw [finishPass_of_lt more, ih pass' quiet' more (by omega)]
    · rw [finishPass_of_le pass' done, scanLoop_at_end pass' done]
      exact run_idle (endPass_phase t) ((endPass_inbox t).trans quiet') n

/-! ### What SCAN answers -/

theorem exec_scan_of_no_window {s : State} {w : Option Bytes} (idle : s.phase = .idle) (no_window : w = none ∨ w = some []) :
    exec (.scan w) s = .next ({ s with mem := [], wlen := 0, results := [] }.emit .invalidWindow 0) := by
  change execScan w s = _
  rcases no_window with rfl | rfl <;> simp only [execScan, idle, State.startPass, emit_phase]

/-- A pass over at least one byte is the loop from the fresh cursor on. -/
theorem exec_scan_of_window {s : State} (idle : s.phase = .idle) (b : Byte) (bs : Bytes) :
    exec (.scan (some (b :: bs))) s = scanLoop (b :: bs).length (s.startPass (some (b :: bs))) := by
  change execScan (some (b :: bs)) s = _
  rw [execScan, idle]
  rfl

/-! ### The obligations -/

/-- Settles O14: the loop starts with the whole window left and no run pending. -/
theorem scanIsTheListing : Obligations.ScanIsTheListing := by
  intro s w idle
  rcases w with _ | _ | ⟨b, bs⟩
  · exact ⟨_, exec_scan_of_no_window idle (.inl rfl), idle, rfl, rfl, rfl, fun _ => rfl, rfl, rfl, rfl, rfl⟩
  · exact ⟨_, exec_scan_of_no_window idle (.inr rfl), idle, rfl, rfl, rfl, fun _ => rfl, rfl, rfl, rfl, rfl⟩
  · obtain ⟨t, ht, done, emits⟩ := scanLoop_givesListing (fuel := (b :: bs).length) (s := s.startPass (some (b :: bs))) rfl
      (Nat.zero_le _) (Nat.sub_le _ _)
    have whole : fetchBytes (s.startPass (some (b :: bs))) = b :: bs := fetchBytes_of_load rfl rfl
    rw [whole] at emits
    exact ⟨t, (exec_scan_of_window idle b bs).trans ht, done, emits.results, emits.emitted, emits.wlen,
      windowByte_of_load emits.mem emits.wlen, emits.maxlen, emits.rom, emits.inbox, emits.ret⟩

/-- Settles O13: START leaves the loop's first state, and each further step is one round of it. -/
theorem steppingAPassIsScan : Obligations.SteppingAPassIsScan := by
  intro s w idle quiet
  have same : { s with inbox := [] } = s := by rw [← quiet]
  have begun : step { s with inbox := [.start w] } = .next (s.startPass w) := by
    rw [step, machineStep_of_start (s := { s with inbox := [.start w] }) rfl idle]
    exact congrArg (fun u : State => Host.Outcome.next (u.startPass w)) same
  rw [run_succ begun]
  rcases w with _ | _ | ⟨b, bs⟩
  · exact (exec_scan_of_no_window idle (.inl rfl)).symm
  · exact (exec_scan_of_no_window idle (.inr rfl)).symm
  · rw [exec_scan_of_window idle]
    exact run_eq_scanLoop rfl quiet (Nat.zero_lt_succ _) (Nat.sub_le _ _)

end Sys2Proof.Proofs
